-- ==== Sys2Proof/Word.lean ====
section
/-! DEFINITION. The widths of the block's data (spec/00_scope.md R8, R11) and their plainest arithmetic. -/

namespace Sys2Proof

/-- A `u8`: a general register, a timer, a byte of memory (R8, R11). Sums and differences wrap modulo 256 (R140). -/
abbrev Byte := BitVec 8

/-- A `u16`: the index register, pc, a stack entry, an instruction word (R8, R11). Sums wrap modulo 2^16 (R24). -/
abbrev Word := BitVec 16

/-- The number of a general register, V0 to VF (R20): the fields `x` and `y` of a word. -/
abbrev Reg := Fin 16

/-- The address of a byte of memory that exists, 0 to 4095 (R30, R50). -/
abbrev Addr := Fin 4096

/-- V0, which Bnnn adds (R105). -/
abbrev Reg.v0 : Reg := 0

/-- VF, register 15, general register and flag register in one (R21). -/
abbrev Reg.vf : Reg := 15

/-- `zext_16` of a byte (R11). -/
abbrev zext16 (b : Byte) : Word := b.setWidth 16

/-- `zext_16` of the 12-bit field `nnn` (R74). -/
abbrev zextAddr (nnn : BitVec 12) : Word := nnn.setWidth 16

end Sys2Proof
end

