-- ==== Sys2Proof/Syntax.lean ====
section
/-! DEFINITION. The instructions: one constructor for each of the 35 rows of spec/opcode_table.json (spec/30_encoding.md
R76), with the operands of its format (R72, R73). Every operand type holds exactly the values its field can hold (R74), so
every term is an instruction; what can be ill-formed is a WORD (WellFormed.lean). -/

namespace Sys2Proof

inductive Instr where
  /-- 0000 `NOP` -/
  | nop
  /-- 00E0 `CLS` -/
  | cls
  /-- 00EE `RET` -/
  | ret
  /-- 1nnn `JP nnn` -/
  | jp (nnn : BitVec 12)
  /-- 2nnn `CALL nnn` -/
  | call (nnn : BitVec 12)
  /-- 3xnn `SE Vx, nn` -/
  | seImm (x : Reg) (nn : Byte)
  /-- 4xnn `SNE Vx, nn` -/
  | sneImm (x : Reg) (nn : Byte)
  /-- 5xy0 `SE Vx, Vy` -/
  | seReg (x y : Reg)
  /-- 6xnn `LD Vx, nn` -/
  | ldImm (x : Reg) (nn : Byte)
  /-- 7xnn `ADD Vx, nn` -/
  | addImm (x : Reg) (nn : Byte)
  /-- 8xy0 `LD Vx, Vy` -/
  | ldReg (x y : Reg)
  /-- 8xy1 `OR Vx, Vy` -/
  | orReg (x y : Reg)
  /-- 8xy2 `AND Vx, Vy` -/
  | andReg (x y : Reg)
  /-- 8xy3 `XOR Vx, Vy` -/
  | xorReg (x y : Reg)
  /-- 8xy4 `ADD Vx, Vy` -/
  | addReg (x y : Reg)
  /-- 8xy5 `SUB Vx, Vy` -/
  | subReg (x y : Reg)
  /-- 8xy6 `SHR Vx, Vy`. The field `y` is a don't-care (R75); it is kept so that a word and its instruction determine
  each other (log entry 11). -/
  | shr (x y : Reg)
  /-- 8xy7 `SUBN Vx, Vy`, which writes Vy (R151) -/
  | subn (x y : Reg)
  /-- 8xyE `SHL Vx, Vy`. The field `y` is a don't-care, kept as in `shr`. -/
  | shl (x y : Reg)
  /-- 9xy0 `SNE Vx, Vy` -/
  | sneReg (x y : Reg)
  /-- Annn `LD I, nnn` -/
  | ldI (nnn : BitVec 12)
  /-- Bnnn `JP V0, nnn` -/
  | jpV0 (nnn : BitVec 12)
  /-- Cxnn `RND Vx, nn` -/
  | rnd (x : Reg) (nn : Byte)
  /-- Dxyn `DRW Vx, Vy, n`; `n` is the row count, 0 to 15 -/
  | drw (x y : Reg) (n : Fin 16)
  /-- Ex9E `SKP Vx` -/
  | skp (x : Reg)
  /-- ExA1 `SKNP Vx` -/
  | sknp (x : Reg)
  /-- Fx07 `LD Vx, DT` -/
  | ldFromDT (x : Reg)
  /-- Fx15 `LD DT, Vx` -/
  | ldToDT (x : Reg)
  /-- Fx18 `LD ST, Vx` -/
  | ldToST (x : Reg)
  /-- Fx1E `ADD I, Vx` -/
  | addI (x : Reg)
  /-- Fx0A `LD Vx, K` -/
  | waitKey (x : Reg)
  /-- Fx29 `LD F, Vx` -/
  | ldGlyph (x : Reg)
  /-- Fx33 `LD B, Vx` -/
  | storeBcd (x : Reg)
  /-- Fx55 `LD [I], Vx` -/
  | storeRegs (x : Reg)
  /-- Fx65 `LD Vx, [I]` -/
  | loadRegs (x : Reg)
  deriving DecidableEq, Repr

end Sys2Proof
end

