-- ==== Sys2Proof/WellFormed.lean ====
section
/-! DEFINITION. The opcode table of spec/30_encoding.md R76 as data, and what makes a WORD well-formed: some row selects
it (`w & mask = match`). Every other word is an unimplemented opcode (R80). An `Instr` needs no check of its own: its
operand types hold exactly the values the fields can hold. -/

namespace Sys2Proof

/-- One row of the opcode map (R76): its mnemonic in spec/opcode_table.json, its mask and its match. -/
structure OpcodeRow where
  mnemonic : String
  mask     : Word
  pattern  : Word
  deriving DecidableEq, Repr

/-- A word selects a row when `w & mask = match` (R76). -/
def OpcodeRow.selects (r : OpcodeRow) (w : Word) : Bool := w &&& r.mask == r.pattern

/-- Rows 1 to 10 of R76 (groups 0 to 7). -/
def opcodeRowsA : List OpcodeRow := [
  ⟨"NOP",         0xFFFF, 0x0000⟩,
  ⟨"CLS",         0xFFFF, 0x00E0⟩,
  ⟨"RET",         0xFFFF, 0x00EE⟩,
  ⟨"JP_nnn",      0xF000, 0x1000⟩,
  ⟨"CALL_nnn",    0xF000, 0x2000⟩,
  ⟨"SE_Vx__nn",   0xF000, 0x3000⟩,
  ⟨"SNE_Vx__nn",  0xF000, 0x4000⟩,
  ⟨"SE_Vx__Vy",   0xF00F, 0x5000⟩,
  ⟨"LD_Vx__nn",   0xF000, 0x6000⟩,
  ⟨"ADD_Vx__nn",  0xF000, 0x7000⟩ ]

/-- Rows 11 to 24 of R76 (groups 8 to D). -/
def opcodeRowsB : List OpcodeRow := [
  ⟨"LD_Vx__Vy",     0xF00F, 0x8000⟩,
  ⟨"OR_Vx__Vy",     0xF00F, 0x8001⟩,
  ⟨"AND_Vx__Vy",    0xF00F, 0x8002⟩,
  ⟨"XOR_Vx__Vy",    0xF00F, 0x8003⟩,
  ⟨"ADD_Vx__Vy",    0xF00F, 0x8004⟩,
  ⟨"SUB_Vx__Vy",    0xF00F, 0x8005⟩,
  ⟨"SHR_Vx__Vy",    0xF00F, 0x8006⟩,
  ⟨"SUBN_Vx__Vy",   0xF00F, 0x8007⟩,
  ⟨"SHL_Vx__Vy",    0xF00F, 0x800E⟩,
  ⟨"SNE_Vx__Vy",    0xF00F, 0x9000⟩,
  ⟨"LD_I__nnn",     0xF000, 0xA000⟩,
  ⟨"JP_V0__nnn",    0xF000, 0xB000⟩,
  ⟨"RND_Vx__nn",    0xF000, 0xC000⟩,
  ⟨"DRW_Vx__Vy__n", 0xF000, 0xD000⟩ ]

/-- Rows 25 to 35 of R76 (groups E and F). -/
def opcodeRowsC : List OpcodeRow := [
  ⟨"SKP_Vx",    0xF0FF, 0xE09E⟩,
  ⟨"SKNP_Vx",   0xF0FF, 0xE0A1⟩,
  ⟨"LD_Vx__DT", 0xF0FF, 0xF007⟩,
  ⟨"LD_DT__Vx", 0xF0FF, 0xF015⟩,
  ⟨"LD_ST__Vx", 0xF0FF, 0xF018⟩,
  ⟨"ADD_I__Vx", 0xF0FF, 0xF01E⟩,
  ⟨"LD_Vx__K",  0xF0FF, 0xF00A⟩,
  ⟨"LD_F__Vx",  0xF0FF, 0xF029⟩,
  ⟨"LD_B__Vx",  0xF0FF, 0xF033⟩,
  ⟨"LD__I___Vx", 0xF0FF, 0xF055⟩,
  ⟨"LD_Vx___I",  0xF0FF, 0xF065⟩ ]

/-- The opcode map of R76, all 35 rows. -/
def opcodeTable : List OpcodeRow := opcodeRowsA ++ opcodeRowsB ++ opcodeRowsC

/-- A word is well-formed when a row of the opcode map selects it; every other word is unimplemented (R80). -/
def wordWellFormed (w : Word) : Bool := opcodeTable.any (·.selects w)

/-- The mnemonic, in spec/opcode_table.json, of the row an instruction stands for. -/
def Instr.mnemonic : Instr → String
  | .nop           => "NOP"
  | .cls           => "CLS"
  | .ret           => "RET"
  | .jp _          => "JP_nnn"
  | .call _        => "CALL_nnn"
  | .seImm _ _     => "SE_Vx__nn"
  | .sneImm _ _    => "SNE_Vx__nn"
  | .seReg _ _     => "SE_Vx__Vy"
  | .ldImm _ _     => "LD_Vx__nn"
  | .addImm _ _    => "ADD_Vx__nn"
  | .ldReg _ _     => "LD_Vx__Vy"
  | .orReg _ _     => "OR_Vx__Vy"
  | .andReg _ _    => "AND_Vx__Vy"
  | .xorReg _ _    => "XOR_Vx__Vy"
  | .addReg _ _    => "ADD_Vx__Vy"
  | .subReg _ _    => "SUB_Vx__Vy"
  | .shr _ _       => "SHR_Vx__Vy"
  | .subn _ _      => "SUBN_Vx__Vy"
  | .shl _ _       => "SHL_Vx__Vy"
  | .sneReg _ _    => "SNE_Vx__Vy"
  | .ldI _         => "LD_I__nnn"
  | .jpV0 _        => "JP_V0__nnn"
  | .rnd _ _       => "RND_Vx__nn"
  | .drw _ _ _     => "DRW_Vx__Vy__n"
  | .skp _         => "SKP_Vx"
  | .sknp _        => "SKNP_Vx"
  | .ldFromDT _    => "LD_Vx__DT"
  | .ldToDT _      => "LD_DT__Vx"
  | .ldToST _      => "LD_ST__Vx"
  | .addI _        => "ADD_I__Vx"
  | .waitKey _     => "LD_Vx__K"
  | .ldGlyph _     => "LD_F__Vx"
  | .storeBcd _    => "LD_B__Vx"
  | .storeRegs _   => "LD__I___Vx"
  | .loadRegs _    => "LD_Vx___I"

end Sys2Proof
end

