-- ==== Sys2Proof/Decode.lean ====
section
/-! DEFINITION. Decoding a word into its instruction (spec/30_encoding.md R72, R76, R77, R80), total on every word and on
every list of bytes, and the encoder written from the same formats (R73). Decoding reads only the bits of the word (R77). -/

namespace Sys2Proof

/-- Why bytes are no instruction. -/
inductive DecodeError where
  /-- No row of R76 selects the word (R80). -/
  | unimplementedOpcode (w : Word)
  /-- Fewer than the two bytes every instruction has (R70). -/
  | truncated
  deriving DecidableEq, Repr

/-- `g = w[15:12]` (R72). -/
def fieldG (w : Word) : BitVec 4 := w.extractLsb' 12 4
/-- `x = w[11:8]` (R72). -/
def fieldX (w : Word) : Reg := (w.extractLsb' 8 4).toFin
/-- `y = w[7:4]` (R72). -/
def fieldY (w : Word) : Reg := (w.extractLsb' 4 4).toFin
/-- `n = w[3:0]` (R72). -/
def fieldN (w : Word) : BitVec 4 := w.extractLsb' 0 4
/-- `nn = w[7:0]` (R72). -/
def fieldNN (w : Word) : Byte := w.extractLsb' 0 8
/-- `nnn = w[11:0]` (R72). -/
def fieldNNN (w : Word) : BitVec 12 := w.extractLsb' 0 12

/-- Group 0: three fixed words; every other word of the group is unimplemented (R76, R80). -/
def decodeGroup0 (w : Word) : Except DecodeError Instr :=
  match fieldNNN w with
  | 0x000#12 => .ok .nop
  | 0x0E0#12 => .ok .cls
  | 0x0EE#12 => .ok .ret
  | _        => .error (.unimplementedOpcode w)

/-- Group 8: `n` is a function code (R73, R76). -/
def decodeGroup8 (w : Word) : Except DecodeError Instr :=
  match fieldN w with
  | 0x0#4 => .ok (.ldReg (fieldX w) (fieldY w))
  | 0x1#4 => .ok (.orReg (fieldX w) (fieldY w))
  | 0x2#4 => .ok (.andReg (fieldX w) (fieldY w))
  | 0x3#4 => .ok (.xorReg (fieldX w) (fieldY w))
  | 0x4#4 => .ok (.addReg (fieldX w) (fieldY w))
  | 0x5#4 => .ok (.subReg (fieldX w) (fieldY w))
  | 0x6#4 => .ok (.shr (fieldX w) (fieldY w))
  | 0x7#4 => .ok (.subn (fieldX w) (fieldY w))
  | 0xE#4 => .ok (.shl (fieldX w) (fieldY w))
  | _     => .error (.unimplementedOpcode w)

/-- Group E: `nn` is a function code (R73, R76). -/
def decodeGroupE (w : Word) : Except DecodeError Instr :=
  match fieldNN w with
  | 0x9E#8 => .ok (.skp (fieldX w))
  | 0xA1#8 => .ok (.sknp (fieldX w))
  | _      => .error (.unimplementedOpcode w)

/-- Group F: `nn` is a function code (R73, R76). -/
def decodeGroupF (w : Word) : Except DecodeError Instr :=
  match fieldNN w with
  | 0x07#8 => .ok (.ldFromDT (fieldX w))
  | 0x0A#8 => .ok (.waitKey (fieldX w))
  | 0x15#8 => .ok (.ldToDT (fieldX w))
  | 0x18#8 => .ok (.ldToST (fieldX w))
  | 0x1E#8 => .ok (.addI (fieldX w))
  | 0x29#8 => .ok (.ldGlyph (fieldX w))
  | 0x33#8 => .ok (.storeBcd (fieldX w))
  | 0x55#8 => .ok (.storeRegs (fieldX w))
  | 0x65#8 => .ok (.loadRegs (fieldX w))
  | _      => .error (.unimplementedOpcode w)

/-- Groups 5 and 9: the low nibble must be 0 (R76, R80). -/
def decodeXY0 (w : Word) (mk : Reg → Reg → Instr) : Except DecodeError Instr :=
  match fieldN w with
  | 0x0#4 => .ok (mk (fieldX w) (fieldY w))
  | _     => .error (.unimplementedOpcode w)

/-- `Decode(w)` (R77): the row of R76 that `w` selects, or the refusal by name. -/
def decode (w : Word) : Except DecodeError Instr :=
  match fieldG w with
  | 0x0#4 => decodeGroup0 w
  | 0x1#4 => .ok (.jp (fieldNNN w))
  | 0x2#4 => .ok (.call (fieldNNN w))
  | 0x3#4 => .ok (.seImm (fieldX w) (fieldNN w))
  | 0x4#4 => .ok (.sneImm (fieldX w) (fieldNN w))
  | 0x5#4 => decodeXY0 w .seReg
  | 0x6#4 => .ok (.ldImm (fieldX w) (fieldNN w))
  | 0x7#4 => .ok (.addImm (fieldX w) (fieldNN w))
  | 0x8#4 => decodeGroup8 w
  | 0x9#4 => decodeXY0 w .sneReg
  | 0xA#4 => .ok (.ldI (fieldNNN w))
  | 0xB#4 => .ok (.jpV0 (fieldNNN w))
  | 0xC#4 => .ok (.rnd (fieldX w) (fieldNN w))
  | 0xD#4 => .ok (.drw (fieldX w) (fieldY w) (fieldN w).toFin)
  | 0xE#4 => decodeGroupE w
  | _     => decodeGroupF w   -- 0xF, the one value left

/-- The 16-bit word whose high byte is `hi`: an instruction word is stored high byte first (R51, R262). -/
def wordOfBytes (hi lo : Byte) : Word := hi ++ lo

/-- The high byte `w[15:8]`, stored at the lower address (R51). -/
def highByte (w : Word) : Byte := w.extractLsb' 8 8

/-- The low byte `w[7:0]`. -/
def lowByte (w : Word) : Byte := w.extractLsb' 0 8

/-- Decode the first instruction of a byte stream, and give the bytes after it (R70, R262). -/
def decodeBytes : List Byte → Except DecodeError (Instr × List Byte)
  | hi :: lo :: rest =>
    match decode (wordOfBytes hi lo) with
    | .ok i    => .ok (i, rest)
    | .error e => .error e
  | _ => .error .truncated

/-- A register number or row count as the 4 bits of its field. -/
def nibble (r : Fin 16) : BitVec 4 := BitVec.ofFin r

/-- Format A (R73): `gggg nnnn nnnn nnnn`. -/
def formatA (g : BitVec 4) (nnn : BitVec 12) : Word := g ++ nnn
/-- Format XK (R73): `gggg xxxx kkkk kkkk`; format XF has the function byte in place of `nn`. -/
def formatXK (g : BitVec 4) (x : Reg) (nn : Byte) : Word := g ++ nibble x ++ nn
/-- Formats XY and XYN (R73): `gggg xxxx yyyy ffff`. -/
def formatXYN (g : BitVec 4) (x y : Reg) (n : BitVec 4) : Word := g ++ nibble x ++ nibble y ++ n

/-- The word of an instruction (R73, R76). -/
def encode : Instr → Word
  | .nop           => 0x0000
  | .cls           => 0x00E0
  | .ret           => 0x00EE
  | .jp nnn        => formatA 0x1 nnn
  | .call nnn      => formatA 0x2 nnn
  | .seImm x nn    => formatXK 0x3 x nn
  | .sneImm x nn   => formatXK 0x4 x nn
  | .seReg x y     => formatXYN 0x5 x y 0x0
  | .ldImm x nn    => formatXK 0x6 x nn
  | .addImm x nn   => formatXK 0x7 x nn
  | .ldReg x y     => formatXYN 0x8 x y 0x0
  | .orReg x y     => formatXYN 0x8 x y 0x1
  | .andReg x y    => formatXYN 0x8 x y 0x2
  | .xorReg x y    => formatXYN 0x8 x y 0x3
  | .addReg x y    => formatXYN 0x8 x y 0x4
  | .subReg x y    => formatXYN 0x8 x y 0x5
  | .shr x y       => formatXYN 0x8 x y 0x6
  | .subn x y      => formatXYN 0x8 x y 0x7
  | .shl x y       => formatXYN 0x8 x y 0xE
  | .sneReg x y    => formatXYN 0x9 x y 0x0
  | .ldI nnn       => formatA 0xA nnn
  | .jpV0 nnn      => formatA 0xB nnn
  | .rnd x nn      => formatXK 0xC x nn
  | .drw x y n     => formatXYN 0xD x y (nibble n)
  | .skp x         => formatXK 0xE x 0x9E
  | .sknp x        => formatXK 0xE x 0xA1
  | .ldFromDT x    => formatXK 0xF x 0x07
  | .ldToDT x      => formatXK 0xF x 0x15
  | .ldToST x      => formatXK 0xF x 0x18
  | .addI x        => formatXK 0xF x 0x1E
  | .waitKey x     => formatXK 0xF x 0x0A
  | .ldGlyph x     => formatXK 0xF x 0x29
  | .storeBcd x    => formatXK 0xF x 0x33
  | .storeRegs x   => formatXK 0xF x 0x55
  | .loadRegs x    => formatXK 0xF x 0x65

/-- The bytes of an instruction as they lie in memory, high byte first (R262). -/
def encodeBytes (i : Instr) : List Byte := [highByte (encode i), lowByte (encode i)]

/-- A word numbered as spec/opcode_table.json numbers its bits: bit 0 is the least significant, no bit above `nbits`. -/
def tableWord (nbits w : Nat) : Word := BitVec.ofNat 16 (w % 2 ^ nbits)

/-- The instruction the decoder reads from a row's word, laid out in memory order (R262). -/
def decodeTableWord (nbits w : Nat) : Option Instr :=
  match decodeBytes [highByte (tableWord nbits w), lowByte (tableWord nbits w)] with
  | .ok (i, _) => some i
  | .error _   => none

end Sys2Proof
end

