-- ==== Sys2Proof/Config.lean ====
section
/-! DEFINITION. The implementation parameters of spec/00_scope.md R8 and the one free value of the model.
A machine carries its `Config` as plain data in `State.cfg` (log entry 1), so a statement about every state holds for
every setting of the parameters. -/

namespace Sys2Proof

/-- OOB_POLICY (R8, R55, decision D2): what an address above 4095, formed from the index register, does. -/
inductive OobPolicy where
  /-- The instruction raises MEM_OUT_OF_BOUNDS. The spec's default. -/
  | fault
  /-- The address is taken modulo 4096. -/
  | wrap
  deriving DecidableEq, Repr

/-- WAITKEY_MODE (R8, R214, decision D3): the pc of Fx0A when no key is pressed. -/
inductive WaitKeyMode where
  /-- pc moves on past the next word. The spec's default. -/
  | skipForward
  /-- pc goes back to Fx0A, which runs again. -/
  | repeatUntilPressed
  deriving DecidableEq, Repr

/-- DRAW_COORD_READ (R8, R192, decision D10): whether Dxyn reads its coordinates after or before it clears VF. -/
inductive DrawCoordRead where
  /-- The spec's default. -/
  | afterClear
  | beforeClear
  deriving DecidableEq, Repr

/-- The parameters of one machine (R8). `font` is FONT: 16 glyphs of 5 bytes, glyph g at bytes 5g to 5g+4 (R58). -/
structure Config where
  oobPolicy     : OobPolicy
  waitKeyMode   : WaitKeyMode
  drawCoordRead : DrawCoordRead
  font          : Vector Byte 80
  deriving DecidableEq, Repr

namespace Config

/-- Glyphs 0 to 7 of the default FONT (spec/93_implementation_defined.md U1, decision D13). PRESUMED (log entry 6),
unsafe: the spec takes these bytes from general knowledge, and the source does not list them. -/
def defaultGlyphs0to7 : List Byte :=
  [0xF0, 0x90, 0x90, 0x90, 0xF0] ++ [0x20, 0x60, 0x20, 0x20, 0x70] ++
  [0xF0, 0x10, 0xF0, 0x80, 0xF0] ++ [0xF0, 0x10, 0xF0, 0x10, 0xF0] ++
  [0x90, 0x90, 0xF0, 0x10, 0x10] ++ [0xF0, 0x80, 0xF0, 0x10, 0xF0] ++
  [0xF0, 0x80, 0xF0, 0x90, 0xF0] ++ [0xF0, 0x10, 0x20, 0x40, 0x40]

/-- Glyphs 8 to F of the default FONT (U1). PRESUMED (log entry 6), unsafe. -/
def defaultGlyphs8toF : List Byte :=
  [0xF0, 0x90, 0xF0, 0x90, 0xF0] ++ [0xF0, 0x90, 0xF0, 0x10, 0xF0] ++
  [0xF0, 0x90, 0xF0, 0x90, 0x90] ++ [0xE0, 0x90, 0xE0, 0x90, 0xE0] ++
  [0xF0, 0x80, 0x80, 0x80, 0xF0] ++ [0xE0, 0x90, 0x90, 0x90, 0xE0] ++
  [0xF0, 0x80, 0xF0, 0x80, 0xF0] ++ [0xF0, 0x80, 0xF0, 0x80, 0x80]

/-- The default FONT, 80 bytes. -/
def defaultFont : Vector Byte 80 := ⟨⟨defaultGlyphs0to7 ++ defaultGlyphs8toF⟩, rfl⟩

/-- The spec's defaults of every parameter (R8). -/
def default : Config where
  oobPolicy     := .fault
  waitKeyMode   := .skipForward
  drawCoordRead := .afterClear
  font          := defaultFont

/-- The random byte of the n-th draw where the host has fixed none (R155, R160; 93_implementation_defined.md UD4 "any
value"; log entry 2). A free value: it has no body, so nothing can be proved of it but that it is a byte. -/
opaque freeRandomByte : Nat → Byte

end Config

end Sys2Proof
end

