-- ==== Sys2Proof/Machine/State.lean ====
section
/-! DEFINITION. The state of the block: every element of spec/10_state.md R37, the parameters of the machine and the
model's own record of the RNG input; the reasons a step can stop; the state after reset. -/

namespace Sys2Proof.Machine

/-- `FAULT.code` (spec/10_state.md R31, spec/60_exceptions.md R230). -/
inductive FaultCode where
  /-- 0: no fault -/
  | noFault
  /-- 1: STEP of a word that no row of R76 selects (R80) -/
  | unimplementedOpcode
  /-- 2: 2nnn with SP = 16 (R104) -/
  | stackOverflow
  /-- 3: 00EE with SP = 0 (R102) -/
  | stackUnderflow
  /-- 4: LOAD of more than 3584 bytes (R261) -/
  | loadTooLarge
  /-- 5: Dxyn, Fx33, Fx55 or Fx65 with an address above 4095 under OOB_POLICY = fault (R55) -/
  | memOutOfBounds
  /-- 6: STEP with pc + 1 > 4095 (R51) -/
  | fetchOutOfBounds
  /-- 7: Ex9E or ExA1 with V[x] of 16 or more (R127) -/
  | keyIndexOutOfRange
  /-- 8: SET_KEY with an index of 16 or more (R218) -/
  | setKeyOutOfRange
  deriving DecidableEq, Repr

/-- The number the host reads for a code (R230). -/
def FaultCode.toNat : FaultCode → Nat
  | .noFault             => 0
  | .unimplementedOpcode => 1
  | .stackOverflow       => 2
  | .stackUnderflow      => 3
  | .loadTooLarge        => 4
  | .memOutOfBounds      => 5
  | .fetchOutOfBounds    => 6
  | .keyIndexOutOfRange  => 7
  | .setKeyOutOfRange    => 8

/-- The fault latch FAULT (R31). -/
structure FaultLatch where
  code  : FaultCode
  fpc   : Word
  fword : Word
  deriving DecidableEq, Repr

/-- The latch after reset: (0, 0, 0) (R31, R37). -/
def FaultLatch.clear : FaultLatch := ⟨.noFault, 0, 0⟩

/-- The reasons a step stops the model. There are none: every fault of spec/60_exceptions.md R230 is recorded in the fault
latch and the transaction ends in a NEXT state (R231, R233; log entry 3), and a halted STEP changes nothing (R232; log
entry 4). Nobody raises one; safe. -/
inductive Fault where
  deriving DecidableEq, Repr

/-- The reasons an instruction has no meaning. -/
inductive Refusal where
  /-- The instruction's meaning is not written yet. Raised only by an arm of `exec` that names its mnemonic; safe. No arm
  does so now. -/
  | notModelled (mnemonic : String)
  deriving DecidableEq, Repr

/-- Memory (R30, R50): the bytes that differ from what reset leaves, as (address, byte) pairs in strictly rising order of
address. What an unlisted address reads as is `initialByte` (Ops.lean); the canonical form is `Memory.wf` there. -/
abbrev Memory := List Host.Cell

/-- The framebuffer (R29, R190): 32 rows of 64 Boolean cells, row-major, true meaning lit. Cell index c + 64·r of the spec
is column c of row r. -/
abbrev Framebuffer := Vector (Vector Bool 64) 32

/-- All the state of the block (R20 to R31), the parameters of the machine (R8; log entry 1), and the model's own record of
the RNG input (R40, R160; log entry 2). -/
structure State where
  /-- V0 to VF (R20); VF is also the flag register (R21) -/
  v        : Vector Byte 16
  /-- the index register (R25) -/
  I        : Word
  /-- the program counter (R23) -/
  pc       : Word
  /-- the stack depth SP, 0 to 16 (R26) -/
  sp       : Fin 17
  /-- stack[0..15] (R26) -/
  stack    : Vector Word 16
  /-- the delay timer (R27) -/
  dt       : Byte
  /-- the sound timer (R27) -/
  st       : Byte
  /-- key[0..15] (R28) -/
  keys     : Vector Bool 16
  /-- fb[0..2047] (R29) -/
  fb       : Framebuffer
  /-- mem[0..4095] (R30) -/
  mem      : Memory
  /-- FAULT (R31) -/
  fault    : FaultLatch
  /-- the parameters of R8, which nothing changes -/
  cfg      : Config
  /-- the model's own: the random draws the host has fixed in advance, next first -/
  rngQueue : List Byte
  /-- the model's own: how many draws have been taken -/
  rngDraws : Nat
  deriving DecidableEq, Repr

/-- The reset state of a machine with parameters `c` (R37, R260), with a record of the RNG input, which is outside the
block (R260), given. -/
def State.resetWith (c : Config) (queue : List Byte) (draws : Nat) : State where
  v        := Vector.replicate 16 0
  I        := 0
  pc       := 0x200
  sp       := 0
  stack    := Vector.replicate 16 0
  dt       := 0
  st       := 0
  keys     := Vector.replicate 16 false
  fb       := Vector.replicate 32 (Vector.replicate 64 false)
  mem      := []
  fault    := FaultLatch.clear
  cfg      := c
  rngQueue := queue
  rngDraws := draws

/-- The machine right after reset (R37), with the spec's defaults of the parameters (R8) and no random draw fixed or taken
(DESIGN CHOICE, log entry 2). -/
def State.reset : State := State.resetWith Config.default [] 0

end Sys2Proof.Machine
end

