-- ==== Sys2Proof/Machine/Ops.lean ====
section
/-! DEFINITION. The named operations over memory, the registers, the stack, the framebuffer, the RNG input and the fault
latch. Every read and write of a piece of state by an instruction or a host transaction goes through one of these. -/

namespace Sys2Proof.Machine

/-! ### Memory (spec/20_memory.md) -/

/-- What reset leaves at an address, and so what an unlisted address reads as: FONT in bytes 0 to 79, 0 above (R30, R37,
R57). -/
def initialByte (c : Config) (a : Nat) : Byte := if h : a < 80 then c.font[a] else 0

/-- The first listed byte at an address. -/
def Memory.lookup : Memory → Nat → Option Byte
  | [], _ => none
  | (k, b) :: m, a => if k = a then some b else Memory.lookup m a

/-- List a byte at its place in rising order of address, in place of the one listed there. -/
def Memory.insert : Memory → Nat → Byte → Memory
  | [], a, b => [(a, b)]
  | (k, v) :: m, a, b =>
    if a < k then (a, b) :: (k, v) :: m
    else if a = k then (a, b) :: m
    else (k, v) :: Memory.insert m a b

/-- Unlist an address. -/
def Memory.erase (m : Memory) (a : Nat) : Memory := m.filter (fun cell => cell.1 ≠ a)

/-- The byte memory holds at an address. -/
def Memory.read (c : Config) (m : Memory) (a : Nat) : Byte := (m.lookup a).getD (initialByte c a)

/-- Memory with one byte written; the canonical form is kept. -/
def Memory.write (c : Config) (m : Memory) (a : Nat) (b : Byte) : Memory :=
  if b = initialByte c a then m.erase a else m.insert a b

/-- The canonical form: addresses strictly rising, each one existing (R50), no entry equal to what an unlisted address reads
as. -/
abbrev Memory.wf (c : Config) (m : Memory) : Prop :=
  m.Pairwise (fun p q => p.1 < q.1) ∧ ∀ cell ∈ m, cell.1 < 4096 ∧ cell.2 ≠ initialByte c cell.1

/-- `MemRead(addr, 1)` (R12, R53). Reading has no side effect (R53). -/
def State.readByte (s : State) (a : Addr) : Byte := s.mem.read s.cfg a.val

/-- `MemWrite(addr, 1, b)` (R12, R53). Every address is writable (R56). -/
def State.writeByte (s : State) (a : Addr) (b : Byte) : State := { s with mem := s.mem.write s.cfg a.val b }

/-- Write bytes at the addresses beside them, in the order of the lists (R60). -/
def State.writeRun : State → List Addr → List Byte → State
  | s, a :: addrs, b :: bs => State.writeRun (s.writeByte a b) addrs bs
  | s, _, _ => s

/-- Read the bytes at some addresses, in the order of the list. -/
def State.readRun (s : State) (addrs : List Addr) : List Byte := addrs.map s.readByte

/-- The byte of a natural number, truncated (R12). -/
def byteOfNat (n : Nat) : Byte := BitVec.ofNat 8 n

/-! ### Registers (spec/10_state.md) -/

/-- `V[r]` (R12, R20). -/
def State.getV (s : State) (r : Reg) : Byte := s.v[r.val]

/-- `V[r] <- b` (R12, R20). -/
def State.setV (s : State) (r : Reg) (b : Byte) : State := { s with v := s.v.set r.val b }

/-- `pc <- target` (R12). -/
def State.setPc (s : State) (target : Word) : State := { s with pc := target }

/-- `pc <- trunc16(pc + 2)`: the advance of the fetch (R71) and of a taken skip (R120). -/
def State.advancePc (s : State) : State := s.setPc (s.pc + 2)

/-- `I <- w` (R12). -/
def State.setI (s : State) (w : Word) : State := { s with I := w }

/-- `DT <- b` (R12). -/
def State.setDT (s : State) (b : Byte) : State := { s with dt := b }

/-- `ST <- b` (R12). -/
def State.setST (s : State) (b : Byte) : State := { s with st := b }

/-- Write V[i], V[i+1], ... in ascending order (R177). -/
def State.loadRegsFrom : State → Nat → List Byte → State
  | s, _, [] => s
  | s, i, b :: bs => State.loadRegsFrom (s.setV (Fin.ofNat 16 i) b) (i + 1) bs

/-- V0 to V[x], in ascending order (R176). -/
def State.regsUpTo (s : State) (x : Reg) : List Byte := s.v.toList.take (x.val + 1)

/-! ### The call stack (R26) -/

/-- Push a return address (R104): none when the stack holds 16 entries. -/
def State.push (s : State) (w : Word) : Option State :=
  if h : s.sp.val < 16 then
    some { s with stack := s.stack.set s.sp.val w, sp := ⟨s.sp.val + 1, by omega⟩ }
  else none

/-- Pop the top entry (R102): none when the stack is empty. The entry keeps its value (R26, decision D18). -/
def State.pop (s : State) : Option (Word × State) :=
  if h : 0 < s.sp.val then
    some (s.stack[s.sp.val - 1], { s with sp := ⟨s.sp.val - 1, by omega⟩ })
  else none

/-! ### The framebuffer (spec/44_display.md) -/

/-- The cell at column `c` and row `r`: fb[c + 64·r] (R190). -/
def Framebuffer.cell (fb : Framebuffer) (c : Fin 64) (r : Fin 32) : Bool := fb[r.val][c.val]

/-- `fb[c + 64·r] <- not fb[c + 64·r]` (R192). -/
def Framebuffer.toggle (fb : Framebuffer) (c : Fin 64) (r : Fin 32) : Framebuffer :=
  fb.set r.val (fb[r.val].set c.val (!fb.cell c r))

/-- Every cell false (R191). -/
def Framebuffer.blank : Framebuffer := Vector.replicate 32 (Vector.replicate 64 false)

/-- All 2048 cells in row-major order, the copy that READ_DISPLAY gives (R194). -/
def Framebuffer.cells (fb : Framebuffer) : List Bool := (fb.toList.map Vector.toList).flatten

/-- Replace the framebuffer. -/
def State.setFb (s : State) (fb : Framebuffer) : State := { s with fb := fb }

/-! ### The keyboard (R28) -/

/-- `key[k] <- p` (R218). -/
def State.setKeyFlag (s : State) (k : Fin 16) (p : Bool) : State := { s with keys := s.keys.set k.val p }

/-- The lowest pressed key (R214): the scan is in ascending order of index. -/
def State.firstKey (s : State) : Option (Fin 16) := (List.finRange 16).find? (fun k => s.keys[k.val])

/-! ### The RNG input (R40, R155, R160; log entry 2) -/

/-- The byte the next draw gives: the one the host has fixed, or a free value. -/
def State.nextRandom (s : State) : Byte := s.rngQueue.headD (Config.freeRandomByte s.rngDraws)

/-- The RNG input after one draw. -/
def State.drawTaken (s : State) : State := { s with rngQueue := s.rngQueue.tail, rngDraws := s.rngDraws + 1 }

/-! ### Taking a fault (spec/60_exceptions.md)

The block has no trap vector, no saved context and no return from a fault (R236, R237): to take one is to record it in the
latch, and the only way out is RESET (Transactions.lean). -/

/-- `raise Fault(code, fpc, fword)` (R231): the latch records the fault if it holds none, and keeps the first one
otherwise. Nothing else changes (R233). -/
def State.raise (s : State) (code : FaultCode) (fpc fword : Word) : State :=
  if s.fault.code = .noFault then { s with fault := ⟨code, fpc, fword⟩ } else s

/-- A fault raised by an instruction while its semantics are applied (R230, R233): `fpc` is the address the instruction was
fetched from, which is pc − 2 because the fetch has advanced pc (R23, R71), and `fword` is its word (log entry 5). -/
def State.raiseExec (s : State) (code : FaultCode) (i : Instr) : State := s.raise code (s.pc - 2) (encode i)

/-! ### Fetching (R51, R71) -/

/-- STEP has no transition while the latch holds a fault (R232). -/
def State.halted (s : State) : Bool := s.fault.code ≠ .noFault

/-- `Fetch(pc)` (R51): the big-endian word at pc and pc + 1, with no alignment requirement (R52); none when pc + 1 > 4095. -/
def State.fetchWord (s : State) : Option Word :=
  if h : s.pc.toNat + 1 ≤ 4095 then
    some (wordOfBytes (s.readByte ⟨s.pc.toNat, by omega⟩) (s.readByte ⟨s.pc.toNat + 1, by omega⟩))
  else none

/-- Lay a word at pc and pc + 1, high byte first, where both addresses exist (R51, R262). -/
def State.placeWord (s : State) (w : Word) : State :=
  if h : s.pc.toNat + 1 ≤ 4095 then
    (s.writeByte ⟨s.pc.toNat, by omega⟩ (highByte w)).writeByte ⟨s.pc.toNat + 1, by omega⟩ (lowByte w)
  else s

/-- A state in which the next STEP fetches: the latch holds no fault and pc + 1 exists; the same state where that is so
already. -/
def State.readyToFetch (s : State) : State :=
  let s := if s.fault.code = .noFault then s else { s with fault := FaultLatch.clear }
  if s.pc.toNat + 1 ≤ 4095 then s else s.setPc 0x200

end Sys2Proof.Machine
end

