-- ==== Sys2Proof/Machine/Flags.lean ====
section
/-! DEFINITION. The values written to VF as a flag (spec/10_state.md R21, spec/42_alu.md R161), and the order of the result
and the flag (R147). -/

namespace Sys2Proof.Machine

/-- The carry out of an 8-bit sum (R148): 1 when the exact sum is above 255. -/
def carryFlag (a b : Byte) : Byte := if a.toNat + b.toNat > 255 then 1 else 0

/-- Not borrow, of a − b (R149, R151): 0 when a < b. -/
def notBorrowFlag (a b : Byte) : Byte := if a.toNat < b.toNat then 0 else 1

/-- The bit a right shift drops (R150). -/
def shiftedOutLow (a : Byte) : Byte := a &&& 1

/-- The bit a left shift drops (R152). -/
def shiftedOutHigh (a : Byte) : Byte := (a >>> 7) &&& 1

/-- The collision flag (R192). -/
def collisionFlag (collided : Bool) : Byte := if collided then 1 else 0

/-- Write the result first and VF last (R147): where the result register is VF, VF keeps the flag. -/
def State.setResultAndFlag (s : State) (r : Reg) (result flag : Byte) : State := (s.setV r result).setV .vf flag

end Sys2Proof.Machine
end

