-- ==== Sys2Proof/Machine/Operands.lean ====
section
/-! DEFINITION. The block's one addressing mode for data, index register plus offset (spec/43_index_memory.md R170), with
the effective-address function of spec/20_memory.md R55. The other operand forms are a register (`State.getV`), an
immediate byte used as it is, and a 12-bit address zero-extended (`zextAddr`) (R74). -/

namespace Sys2Proof.Machine

/-- `Resolve(I, j)` (R55): the sum is an unbounded natural; above 4095 it faults (none) or wraps modulo 4096, as OOB_POLICY
says. -/
def resolve (c : Config) (I : Word) (j : Nat) : Option Addr :=
  if h : I.toNat + j ≤ 4095 then some ⟨I.toNat + j, by omega⟩
  else match c.oobPolicy with
    | .fault => none
    | .wrap  => some ⟨(I.toNat + j) % 4096, Nat.mod_lt _ (by decide)⟩

/-- `Resolve(I, j)`, ..., `Resolve(I, j + n − 1)`, all of them before any access; none if one faults (R55, R170). -/
def resolveFrom (c : Config) (I : Word) : Nat → Nat → Option (List Addr)
  | _, 0 => some []
  | j, n + 1 =>
    match resolve c I j with
    | none => none
    | some a =>
      match resolveFrom c I (j + 1) n with
      | none => none
      | some addrs => some (a :: addrs)

/-- The addresses of the `n` bytes an instruction accesses from I: offsets 0 to n − 1 (R53). -/
def State.indexed (s : State) (n : Nat) : Option (List Addr) := resolveFrom s.cfg s.I 0 n

end Sys2Proof.Machine
end

