-- ==== Sys2Proof/Machine/ControlFlow.lean ====
section
/-! DEFINITION. Control flow (spec/40_control_flow.md). When a meaning starts, pc has been advanced past the instruction
(R71). Targets are not checked and need no alignment (R100). -/

namespace Sys2Proof.Machine

/-- 0000 (R101). -/
def execNop (s : State) : Host.Outcome State Fault Refusal := .next s

/-- 00EE (R102). -/
def execRet (s : State) : Host.Outcome State Fault Refusal :=
  match s.pop with
  | some (w, s') => .next (s'.setPc w)
  | none         => .next (s.raiseExec .stackUnderflow .ret)

/-- 1nnn (R103). -/
def execJp (nnn : BitVec 12) (s : State) : Host.Outcome State Fault Refusal := .next (s.setPc (zextAddr nnn))

/-- 2nnn (R104): the value pushed is the advanced pc, the address of the instruction after the call. -/
def execCall (nnn : BitVec 12) (s : State) : Host.Outcome State Fault Refusal :=
  match s.push s.pc with
  | some s' => .next (s'.setPc (zextAddr nnn))
  | none    => .next (s.raiseExec .stackOverflow (.call nnn))

/-- Bnnn (R105): the sum is not masked to 12 bits. -/
def execJpV0 (nnn : BitVec 12) (s : State) : Host.Outcome State Fault Refusal :=
  .next (s.setPc (zextAddr nnn + zext16 (s.getV .v0)))

end Sys2Proof.Machine
end

