-- ==== Sys2Proof/Machine/Display.lean ====
section
/-! DEFINITION. The display compositor (spec/44_display.md): clear, and the sprite XOR-blit with collision. -/

namespace Sys2Proof.Machine

/-- 00E0 (R191). -/
def execCls (s : State) : Host.Outcome State Fault Refusal := .next (s.setFb .blank)

/-- What Dxyn's loops carry (R192): the framebuffer, and whether a set cell has been turned off. -/
structure Canvas where
  fb       : Framebuffer
  collided : Bool
  deriving DecidableEq, Repr

/-- Bit 7 − k of a row byte: column k, most significant bit first (R10, R192). -/
def spriteBit (b : Byte) (k : Nat) : Bool := b.getLsbD (7 - k)

/-- The body of Dxyn's inner loop (R192): row j, column k; coordinates wrap modulo 64 and 32. -/
def Canvas.drawPixel (cx cy j : Nat) (b : Byte) (p : Canvas) (k : Nat) : Canvas :=
  if spriteBit b k then
    let c := Fin.ofNat 64 (cx + k)
    let r := Fin.ofNat 32 (cy + j)
    { fb := p.fb.toggle c r, collided := p.collided || p.fb.cell c r }
  else p

/-- One row of a sprite: columns 0 to 7 (R192). -/
def Canvas.drawRow (cx cy j : Nat) (b : Byte) (p : Canvas) : Canvas := (List.range 8).foldl (Canvas.drawPixel cx cy j b) p

/-- The rows of a sprite from row j on, top first (R192). -/
def Canvas.drawRows (cx cy : Nat) : Nat → List Byte → Canvas → Canvas
  | _, [], p => p
  | j, b :: bs, p => Canvas.drawRows cx cy (j + 1) bs (p.drawRow cx cy j b)

/-- The state Dxyn reads its coordinates from: after or before VF is cleared, as DRAW_COORD_READ says (R192, decision
D10). -/
def State.coordState (s : State) : State :=
  match s.cfg.drawCoordRead with
  | .afterClear  => s.setV .vf 0
  | .beforeClear => s

/-- Dxyn (R192). With n = 0 no address is resolved and only VF is cleared (spec/90_conflicts.md C3). -/
def execDrw (x y : Reg) (n : Fin 16) (s : State) : Host.Outcome State Fault Refusal :=
  match s.indexed n.val with
  | some addrs =>
    let cx := (s.coordState.getV x).toNat
    let cy := (s.coordState.getV y).toNat
    let p := Canvas.drawRows cx cy 0 (s.readRun addrs) ⟨s.fb, false⟩
    .next (((s.setV .vf 0).setFb p.fb).setV .vf (collisionFlag p.collided))
  | none => .next (s.raiseExec .memOutOfBounds (.drw x y n))

end Sys2Proof.Machine
end

