-- ==== Sys2Proof/Machine/IndexMemory.lean ====
section
/-! DEFINITION. The index register and memory through it (spec/43_index_memory.md). Every offset is resolved before the
first access, so an out-of-bounds fault is precise (R170); no instruction here but the three that write I changes it. -/

namespace Sys2Proof.Machine

/-- Annn (R171). -/
def execLdI (nnn : BitVec 12) (s : State) : Host.Outcome State Fault Refusal := .next (s.setI (zextAddr nnn))

/-- Fx29 (R172): V[x] is not masked. -/
def execLdGlyph (x : Reg) (s : State) : Host.Outcome State Fault Refusal := .next (s.setI (zext16 (s.getV x) * 5))

/-- Fx1E (R173): no flag. -/
def execAddI (x : Reg) (s : State) : Host.Outcome State Fault Refusal := .next (s.setI (s.I + zext16 (s.getV x)))

/-- The decimal digits of a byte, hundreds first (R175). -/
def bcdDigits (b : Byte) : List Byte :=
  [byteOfNat (b.toNat / 100), byteOfNat (b.toNat / 10 % 10), byteOfNat (b.toNat % 10)]

/-- Fx33 (R175). -/
def execStoreBcd (x : Reg) (s : State) : Host.Outcome State Fault Refusal :=
  match s.indexed 3 with
  | some addrs => .next (s.writeRun addrs (bcdDigits (s.getV x)))
  | none       => .next (s.raiseExec .memOutOfBounds (.storeBcd x))

/-- Fx55 (R176): x + 1 bytes; I is unchanged (decision D11). -/
def execStoreRegs (x : Reg) (s : State) : Host.Outcome State Fault Refusal :=
  match s.indexed (x.val + 1) with
  | some addrs => .next (s.writeRun addrs (s.regsUpTo x))
  | none       => .next (s.raiseExec .memOutOfBounds (.storeRegs x))

/-- Fx65 (R177): x + 1 bytes; I is unchanged (decision D11). -/
def execLoadRegs (x : Reg) (s : State) : Host.Outcome State Fault Refusal :=
  match s.indexed (x.val + 1) with
  | some addrs => .next (s.loadRegsFrom 0 (s.readRun addrs))
  | none       => .next (s.raiseExec .memOutOfBounds (.loadRegs x))

end Sys2Proof.Machine
end

