-- ==== Sys2Proof/Machine/Skips.lean ====
section
/-! DEFINITION. Conditional skips (spec/41_skips.md). -/

namespace Sys2Proof.Machine

/-- A skip whose condition holds adds 2 more to pc (R120); no skip changes anything else. -/
def State.skipIf (s : State) (condition : Bool) : State := if condition then s.advancePc else s

/-- 3xnn (R121). -/
def execSeImm (x : Reg) (nn : Byte) (s : State) : Host.Outcome State Fault Refusal := .next (s.skipIf (s.getV x = nn))

/-- 4xnn (R122). -/
def execSneImm (x : Reg) (nn : Byte) (s : State) : Host.Outcome State Fault Refusal := .next (s.skipIf (s.getV x ≠ nn))

/-- 5xy0 (R123). -/
def execSeReg (x y : Reg) (s : State) : Host.Outcome State Fault Refusal := .next (s.skipIf (s.getV x = s.getV y))

/-- 9xy0 (R124). -/
def execSneReg (x y : Reg) (s : State) : Host.Outcome State Fault Refusal := .next (s.skipIf (s.getV x ≠ s.getV y))

/-- The flag of the key whose index is V[x]; none when V[x] is 16 or more, which is not masked (R127). -/
def State.keyOf (s : State) (x : Reg) : Option Bool :=
  if h : (s.getV x).toNat < 16 then some s.keys[(s.getV x).toNat] else none

/-- Ex9E (R125). -/
def execSkp (x : Reg) (s : State) : Host.Outcome State Fault Refusal :=
  match s.keyOf x with
  | some pressed => .next (s.skipIf pressed)
  | none         => .next (s.raiseExec .keyIndexOutOfRange (.skp x))

/-- ExA1 (R126). -/
def execSknp (x : Reg) (s : State) : Host.Outcome State Fault Refusal :=
  match s.keyOf x with
  | some pressed => .next (s.skipIf (!pressed))
  | none         => .next (s.raiseExec .keyIndexOutOfRange (.sknp x))

end Sys2Proof.Machine
end

