-- ==== Sys2Proof/Machine/TimersKeys.lean ====
section
/-! DEFINITION. The timer and key instructions (spec/45_timers_keys.md). -/

namespace Sys2Proof.Machine

/-- Fx07 (R211). -/
def execLdFromDT (x : Reg) (s : State) : Host.Outcome State Fault Refusal := .next (s.setV x s.dt)

/-- Fx15 (R212). -/
def execLdToDT (x : Reg) (s : State) : Host.Outcome State Fault Refusal := .next (s.setDT (s.getV x))

/-- Fx18 (R213): never a sound-expired event (R217). -/
def execLdToST (x : Reg) (s : State) : Host.Outcome State Fault Refusal := .next (s.setST (s.getV x))

/-- Fx0A (R214): the lowest pressed key; with none pressed, pc moves as WAITKEY_MODE says (decision D3, spec/90_conflicts.md
C4). -/
def execWaitKey (x : Reg) (s : State) : Host.Outcome State Fault Refusal :=
  match s.firstKey with
  | some k => .next (s.setV x (byteOfNat k.val))
  | none =>
    match s.cfg.waitKeyMode with
    | .skipForward        => .next s.advancePc
    | .repeatUntilPressed => .next (s.setPc (s.pc - 2))

end Sys2Proof.Machine
end

