-- ==== Sys2Proof/Machine/Cycle.lean ====
section
/-! DEFINITION. The cycle of one STEP transaction (spec/30_encoding.md R71). -/

namespace Sys2Proof.Machine

/-- Decode a fetched word and execute it; `s` has pc advanced past the word (R71). A word that no row selects raises
UNIMPLEMENTED_OPCODE (R80). -/
def State.runWord (s : State) (w : Word) : Host.Outcome State Fault Refusal :=
  match decode w with
  | .ok i    => exec i s
  | .error _ => .next (s.raise .unimplementedOpcode (s.pc - 2) w)

/-- `Step` (R71), with the checks in the order of R234: the halt check, which gives no transition (R232; log entry 4); the
fetch, whose fault leaves pc (R51, R233); then pc advances by 2, and the word is decoded and executed. -/
def State.stepCycle (s : State) : Host.Outcome State Fault Refusal :=
  if s.halted then .next s
  else
    match s.fetchWord with
    | none   => .next (s.raise .fetchOutOfBounds s.pc 0)
    | some w => s.advancePc.runWord w

end Sys2Proof.Machine
end

