-- ==== Sys2Proof/Machine/Step.lean ====
section
/-! DEFINITION. The step of the machine, which is the STEP transaction (spec/10_state.md R40), and how the host places an
instruction where the next STEP fetches it. -/

namespace Sys2Proof.Machine

/-- STEP (R71). Its RNG byte is the state's RNG input (R40; log entry 2). -/
def step (s : State) : Host.Outcome State Fault Refusal := s.stepCycle

/-- `s` with an instruction word laid out where the next STEP fetches: at pc and pc + 1, high byte first. Where `s` is
halted the latch is cleared, and where pc + 1 is outside memory pc is 0x200, since no STEP would fetch otherwise (log entry
7). -/
def State.withFetchWord (s : State) (nbits w : Nat) : State := s.readyToFetch.placeWord (tableWord nbits w)

end Sys2Proof.Machine
end

