-- ==== Sys2Proof/Machine/Transactions.lean ====
section
/-! DEFINITION. The block interface: the six atomic transactions of spec/10_state.md R40, which the host issues in any order
it chooses (R41), and what the host observes (R42). -/

namespace Sys2Proof.Machine

/-- A transaction with its inputs (R40). -/
inductive Transaction where
  /-- RESET (R260) -/
  | reset
  /-- LOAD of a byte sequence (R261) -/
  | load (b : List Byte)
  /-- STEP, with its RNG byte (R71, R160) -/
  | step (r : Byte)
  /-- TICK (R216) -/
  | tick
  /-- SET_KEY of an index and a level (R218) -/
  | setKey (k : Nat) (pressed : Bool)
  /-- READ_DISPLAY (R194) -/
  | readDisplay
  deriving DecidableEq, Repr

/-- What a transaction gives the host beside the new state (R40). -/
inductive Output where
  /-- nothing -/
  | none
  /-- SOUND_EXPIRED (R217) -/
  | soundExpired
  /-- the copy of the 2048 cells (R194) -/
  | display (cells : List Bool)
  deriving DecidableEq, Repr

/-- RESET (R260): every element of R37 at its reset value. The parameters are the machine's (R8), and the RNG input is
outside the block and is not touched. -/
def State.resetTransaction (s : State) : State := State.resetWith s.cfg s.rngQueue s.rngDraws

/-- The addresses 0x200 to 0x200 + n − 1 that LOAD writes (R261). -/
def loadAddrs (n : Nat) : List Addr := (List.range n).map (fun i => Fin.ofNat 4096 (0x200 + i))

/-- LOAD (R261): more than 3584 bytes raise LOAD_TOO_LARGE and nothing is written; otherwise the bytes are copied from
0x200 on. -/
def State.load (s : State) (b : List Byte) : State :=
  if b.length > 3584 then s.raise .loadTooLarge s.pc 0
  else s.writeRun (loadAddrs b.length) b

/-- A timer after TICK: one less, floored at 0 (R216). -/
def tickDown (t : Byte) : Byte := if t = 0 then 0 else t - 1

/-- TICK (R216): both timers, independently. -/
def State.tick (s : State) : State := (s.setDT (tickDown s.dt)).setST (tickDown s.st)

/-- Whether a TICK emits SOUND_EXPIRED: exactly when it moves ST from 1 to 0 (R216, R217). -/
def State.soundExpires (s : State) : Bool := s.st = 1

/-- SET_KEY (R218): an index of 16 or more raises SET_KEY_OUT_OF_RANGE and no key changes. -/
def State.setKey (s : State) (k : Nat) (pressed : Bool) : State :=
  if h : k < 16 then s.setKeyFlag ⟨k, h⟩ pressed
  else s.raise .setKeyOutOfRange s.pc 0

/-- The state with a STEP's RNG byte as the next draw (R40). -/
def State.offerRandom (s : State) (r : Byte) : State := { s with rngQueue := r :: s.rngQueue }

/-- The state after a STEP whose RNG byte was not taken: the byte is gone (R160; log entry 2). -/
def State.withQueue (s : State) (queue : List Byte) : State := { s with rngQueue := queue }

/-- STEP with its RNG byte (R40, R71). -/
def State.stepWith (s : State) (r : Byte) : Host.Outcome State Fault Refusal :=
  match step (s.offerRandom r) with
  | .next t    => .next (t.withQueue s.rngQueue)
  | .fault f   => .fault f
  | .refused f => .refused f

/-- One transaction: the new state and what the host is given (R40). -/
def transact (t : Transaction) (s : State) : Host.Outcome (State × Output) Fault Refusal :=
  match t with
  | .reset       => .next (s.resetTransaction, .none)
  | .load b      => .next (s.load b, .none)
  | .step r      =>
    match s.stepWith r with
    | .next s'   => .next (s', .none)
    | .fault f   => .fault f
    | .refused f => .refused f
  | .tick        => .next (s.tick, if s.soundExpires then .soundExpired else .none)
  | .setKey k p  => .next (s.setKey k p, .none)
  | .readDisplay => .next (s, .display s.fb.cells)

/-- A sequence of transactions, in the order the host issues them (R41), with every output in order. -/
def transactAll : List Transaction → State → Host.Outcome (State × List Output) Fault Refusal
  | [], s => .next (s, [])
  | t :: ts, s =>
    match transact t s with
    | .next (s', o) =>
      match transactAll ts s' with
      | .next (s'', os) => .next (s'', o :: os)
      | .fault f        => .fault f
      | .refused f      => .refused f
    | .fault f   => .fault f
    | .refused f => .refused f

/-- What the host can observe at any time without a transaction: ST and the fault latch (R42). -/
structure HostView where
  st    : Byte
  fault : FaultLatch
  deriving DecidableEq, Repr

def State.hostView (s : State) : HostView := ⟨s.st, s.fault⟩

end Sys2Proof.Machine
end

