-- ==== Sys2Proof/Safety.lean ====
section
/-! DEFINITION. What counts as a safe state and the end of a run, in the terms the claims use. -/

namespace Sys2Proof.Machine

/-- A state is safe when the latch holds no fault (spec/60_exceptions.md R232): the block is not halted. -/
def State.Safe (s : State) : Prop := s.fault.code = .noFault

/-- How a run stands (spec/70_reset_and_hazards.md R275, the spec's own convention). -/
inductive RunStatus where
  /-- pc is at a jump to itself and no fault is latched -/
  | idle (a : Word)
  /-- a fault is latched -/
  | faulted (code : FaultCode)
  /-- anything else -/
  | notEnded
  deriving DecidableEq, Repr

/-- The status of a run (R275): idle at a when pc = a, no fault is latched and the word at a is 1nnn with nnn = a. -/
def State.runStatus (s : State) : RunStatus :=
  if s.fault.code ≠ .noFault then .faulted s.fault.code
  else
    match s.fetchWord with
    | none => .notEnded
    | some w =>
      match decode w with
      | .ok (.jp nnn) => if zextAddr nnn = s.pc then .idle s.pc else .notEnded
      | _ => .notEnded

/-- What a fault latch can hold (R230): each code with the `fpc` and `fword` its row names. -/
def FaultLatch.consistent (f : FaultLatch) : Prop :=
  match f.code with
  | .noFault             => f.fpc = 0 ∧ f.fword = 0
  | .unimplementedOpcode => wordWellFormed f.fword = false ∧ f.fpc.toNat + 1 ≤ 4095
  | .stackOverflow       => (∃ nnn, f.fword = encode (.call nnn)) ∧ f.fpc.toNat + 1 ≤ 4095
  | .stackUnderflow      => f.fword = 0x00EE ∧ f.fpc.toNat + 1 ≤ 4095
  | .loadTooLarge        => f.fword = 0
  | .memOutOfBounds      =>
    (∃ x y n, f.fword = encode (.drw x y n) ∨ f.fword = encode (.storeBcd x) ∨ f.fword = encode (.storeRegs x) ∨
      f.fword = encode (.loadRegs x)) ∧ f.fpc.toNat + 1 ≤ 4095
  | .fetchOutOfBounds    => f.fword = 0 ∧ f.fpc.toNat + 1 > 4095
  | .keyIndexOutOfRange  => (∃ x, f.fword = encode (.skp x) ∨ f.fword = encode (.sknp x)) ∧ f.fpc.toNat + 1 ≤ 4095
  | .setKeyOutOfRange    => f.fword = 0

/-- The invariant of the machine: memory is in its canonical form, and the latch holds only what R230 lets it hold. -/
def State.Inv (s : State) : Prop := s.mem.wf s.cfg ∧ s.fault.consistent

/-! ### Words, as the rows of R76 give them: the row's match and its fields (R72) -/

/-- `match + nnn`. -/
def wordA (pattern : Nat) (nnn : BitVec 12) : Word := BitVec.ofNat 16 (pattern + nnn.toNat)

/-- `match + x·256 + nn`. -/
def wordXK (pattern : Nat) (x : Reg) (nn : Byte) : Word := BitVec.ofNat 16 (pattern + 256 * x.val + nn.toNat)

/-- `match + x·256 + y·16`. -/
def wordXY (pattern : Nat) (x y : Reg) : Word := BitVec.ofNat 16 (pattern + 256 * x.val + 16 * y.val)

/-- `match + x·256`. -/
def wordX (pattern : Nat) (x : Reg) : Word := BitVec.ofNat 16 (pattern + 256 * x.val)

/-- The address (I + j) mod 4096: with I + j at most 4095 it is I + j itself, and above that it is the address under
OOB_POLICY = wrap (R55). -/
def State.indexedAddr (s : State) (j : Nat) : Addr := ⟨(s.I.toNat + j) % 4096, Nat.mod_lt _ (by decide)⟩

/-- An access of `n` bytes from I is in bounds, or wraps (R55): the negation of the condition that faults. -/
def State.Accessible (s : State) (n : Nat) : Prop := s.cfg.oobPolicy = .wrap ∨ s.I.toNat + n ≤ 4096

/-- The state after an instruction has raised a fault (R230, R233): the latch holds its code, the address it was fetched
from and its word, and nothing else has changed. `s` has pc advanced past the instruction. -/
def State.faultedBy (s : State) (code : FaultCode) (w : Word) : State := { s with fault := ⟨code, s.pc - 2, w⟩ }

/-- Some row j below n has its bit for column k set, and (cx + k, cy + j), wrapped, is the cell (c, r) (R192). -/
def SpriteCovers (row : Nat → Byte) (n cx cy : Nat) (c : Fin 64) (r : Fin 32) : Prop :=
  ∃ j k, j < n ∧ k < 8 ∧ (row j).getLsbD (7 - k) = true ∧ (cx + k) % 64 = c.val ∧ (cy + j) % 32 = r.val

/-- A coordinate Dxyn reads (R192, DRAW_COORD_READ): 0 for VF after the clear, the register's value otherwise. -/
def State.coordinate (s : State) (x : Reg) : Nat :=
  if x = .vf ∧ s.cfg.drawCoordRead = .afterClear then 0 else (s.getV x).toNat

/-! ### What an instruction may change, from the spec's own tables -/

/-- The general registers an instruction can write, its flag among them (R21, R22). -/
def writtenRegs : Instr → List Reg
  | .ldImm x _ | .addImm x _ | .ldReg x _ | .orReg x _ | .andReg x _ | .xorReg x _ | .rnd x _ | .ldFromDT x
  | .waitKey x => [x]
  | .addReg x _ | .subReg x _ | .shr x _ | .shl x _ => [x, .vf]
  | .subn _ y => [y, .vf]
  | .drw _ _ _ => [.vf]
  | .loadRegs x => (List.finRange 16).filter (·.val ≤ x.val)
  | .nop | .cls | .ret | .jp _ | .call _ | .seImm _ _ | .sneImm _ _ | .seReg _ _ | .sneReg _ _ | .ldI _ | .jpV0 _
  | .skp _ | .sknp _ | .ldToDT _ | .ldToST _ | .addI _ | .ldGlyph _ | .storeBcd _ | .storeRegs _ => []

/-- How many bytes an instruction accesses from I (R53). -/
def accessCount : Instr → Nat
  | .drw _ _ n => n.val
  | .storeBcd _ => 3
  | .storeRegs x | .loadRegs x => x.val + 1
  | .nop | .cls | .ret | .jp _ | .call _ | .seImm _ _ | .sneImm _ _ | .seReg _ _ | .sneReg _ _ | .ldI _ | .jpV0 _
  | .skp _ | .sknp _ | .ldToDT _ | .ldToST _ | .addI _ | .ldGlyph _ | .ldImm _ _ | .addImm _ _ | .ldReg _ _ | .orReg _ _
  | .andReg _ _ | .xorReg _ _ | .rnd _ _ | .ldFromDT _ | .waitKey _ | .addReg _ _ | .subReg _ _ | .shr _ _ | .shl _ _
  | .subn _ _ => 0

/-- The addresses an instruction stores to (R53), by the function its meaning resolves them with; none for an instruction
that stores nothing. -/
def storedAddrs (i : Instr) (s : State) : List Addr :=
  match i with
  | .storeBcd _ | .storeRegs _ => (s.indexed (accessCount i)).getD []
  | _ => []

/-- The fault an instruction's own check raises (R230, R234), `noFault` where the check passes. -/
def ownFault (i : Instr) (s : State) : FaultCode :=
  match i with
  | .call _ => if s.sp.val = 16 then .stackOverflow else .noFault
  | .ret => if s.sp.val = 0 then .stackUnderflow else .noFault
  | .skp x | .sknp x => if 16 ≤ (s.getV x).toNat then .keyIndexOutOfRange else .noFault
  | i =>
    if 0 < accessCount i ∧ s.cfg.oobPolicy = .fault ∧ 4095 < s.I.toNat + accessCount i - 1 then .memOutOfBounds
    else .noFault

/-- Two states that differ at most in stack entries at or above the depth (R26). -/
def State.SameButDeadStack (s t : State) : Prop :=
  t = { s with stack := t.stack } ∧ ∀ k : Fin 16, k.val < s.sp.val → t.stack[k.val] = s.stack[k.val]

end Sys2Proof.Machine
end

