-- ==== Sys2Proof/Certificates/Slice0/Obligations.lean ====
section
/-! DEFINITION. The statements for the provers. In a statement about `exec i s`, pc of `s` has been advanced past the
instruction (spec/30_encoding.md R71), so the address it was fetched from is `s.pc - 2`. A statement of an instruction says
first that the words its row selects decode to it, then what it does: the state after it is `{ s with ... }`, which names
every field that may have changed, and the new values follow. -/

section
open Sys2Proof Sys2Proof.Machine Host

/-! ### Encoding (30_encoding.md) -/

/-- A few words written out from R76 decode to the instructions they stand for. -/
def Obligations.SpecWordsDecodeToTheirInstructions : Prop :=
  decode 0x0000 = .ok .nop ∧ decode 0x00E0 = .ok .cls ∧ decode 0x00EE = .ok .ret ∧
  decode 0x1ABC = .ok (.jp 0xABC) ∧ decode 0x3342 = .ok (.seImm 3 0x42) ∧ decode 0x8127 = .ok (.subn 1 2) ∧
  decode 0x810E = .ok (.shl 1 0) ∧ decode 0xA2F0 = .ok (.ldI 0x2F0) ∧ decode 0xD12F = .ok (.drw 1 2 15) ∧
  decode 0xE5A1 = .ok (.sknp 5) ∧ decode 0xF50A = .ok (.waitKey 5) ∧ decode 0xF265 = .ok (.loadRegs 2) ∧
  decode 0x0123 = .error (.unimplementedOpcode 0x0123) ∧ decode 0x5121 = .error (.unimplementedOpcode 0x5121)

/-- Decoding the encoding of any instruction gives it back, with every operand. -/
def Obligations.DecodeOfEncodeIsTheInstruction : Prop :=
  ∀ i : Instr, decode (encode i) = .ok i

/-- A word that decodes is the encoding of the instruction it decodes to: decoding loses no bit. -/
def Obligations.EncodeOfDecodeIsTheWord : Prop :=
  ∀ (w : Word) (i : Instr), decode w = .ok i → encode i = w

/-- R77: Decode gives the row that the word selects and UNIMPLEMENTED when no row does, and no two rows select one word. -/
def Obligations.DecodeGivesTheOneRowTheWordSelects : Prop :=
  (∀ (w : Word) (i : Instr), decode w = .ok i → ∃ r ∈ opcodeTable, r.selects w = true ∧ r.mnemonic = i.mnemonic) ∧
  (∀ w : Word, (∀ r ∈ opcodeTable, r.selects w = false) → decode w = .error (.unimplementedOpcode w)) ∧
  (∀ w : Word, (∃ r ∈ opcodeTable, r.selects w = true) → ∃ i, decode w = .ok i) ∧
  (∀ (w : Word) (r r' : OpcodeRow), r ∈ opcodeTable → r' ∈ opcodeTable → r.selects w = true → r'.selects w = true → r = r')

/-- The y field of 8xy6 and 8xyE has no effect. That each value of it decodes to a term of its own, which keeps the field, is
the model's choice (log entry 11). -/
def Obligations.ShiftsIgnoreTheYField : Prop :=
  ∀ (x y y' : Reg) (s : State),
    decode (wordXY 0x8006 x y) = .ok (.shr x y) ∧ decode (wordXY 0x800E x y) = .ok (.shl x y) ∧
    exec (.shr x y) s = exec (.shr x y') s ∧ exec (.shl x y) s = exec (.shl x y') s

/-! ### The step cycle (30_encoding.md, 20_memory.md, 60_exceptions.md) -/

/-- A step runs the decoded instruction: with no fault latched and pc + 1 in memory, when the big-endian word at pc and
pc + 1 decodes to `i`, the step is `i` executed with pc advanced by 2. -/
def Obligations.StepRunsTheDecodedInstruction : Prop :=
  ∀ (s : State) (i : Instr) (a b : Addr), s.fault.code = .noFault → a.val = s.pc.toNat → b.val = s.pc.toNat + 1 →
    decode (BitVec.ofNat 16 (256 * (s.readByte a).toNat + (s.readByte b).toNat)) = .ok i →
    step s = exec i { s with pc := s.pc + 2 }

/-- A step at pc with pc + 1 > 4095 latches FETCH_OUT_OF_BOUNDS with fpc = pc and fword = 0, and leaves pc and all else. -/
def Obligations.FetchOutsideMemoryLatches : Prop :=
  ∀ s : State, s.fault.code = .noFault → s.pc.toNat + 1 > 4095 →
    step s = .next { s with fault := ⟨.fetchOutOfBounds, s.pc, 0⟩ }

/-- R80: a word that no row selects latches UNIMPLEMENTED_OPCODE with fpc = addr and fword = w, after pc has advanced. -/
def Obligations.UnimplementedWordLatches : Prop :=
  ∀ (s : State) (a b : Addr) (w : Word), s.fault.code = .noFault → a.val = s.pc.toNat → b.val = s.pc.toNat + 1 →
    w = BitVec.ofNat 16 (256 * (s.readByte a).toNat + (s.readByte b).toNat) →
    (∀ r ∈ opcodeTable, w &&& r.mask ≠ r.pattern) →
    step s = .next { s with pc := s.pc + 2, fault := ⟨.unimplementedOpcode, s.pc, w⟩ }

/-- R232: while a fault is latched STEP changes nothing; TICK, SET_KEY, LOAD and READ_DISPLAY act as they do on the same
block with no fault latched, but for the latch, which stays; RESET clears it. -/
def Obligations.HaltedBlockOnlyIgnoresStep : Prop :=
  ∀ s : State, s.fault.code ≠ .noFault →
    step s = .next s ∧
    (∀ r, transact (.step r) s = .next (s, .none)) ∧
    (∀ tr : Transaction, tr ≠ .reset → (∀ r, tr ≠ .step r) →
      ∃ t o, transact tr { s with fault := ⟨.noFault, 0, 0⟩ } = .next (t, o) ∧
        transact tr s = .next ({ t with fault := s.fault }, o)) ∧
    (∃ t, transact .reset s = .next (t, .none) ∧ t.fault = ⟨.noFault, 0, 0⟩)

/-! ### Control flow (40_control_flow.md) -/

/-- R101, R103 and R105: the no-op changes nothing; a jump puts its 12-bit address, zero-extended, in pc; an indexed jump
puts nnn + V0 there, not masked to 12 bits, whatever the x nibble of the word. -/
def Obligations.NopAndJumpsSetPc : Prop :=
  decode 0x0000 = .ok .nop ∧
  ∀ (nnn : BitVec 12) (s : State),
    exec .nop s = .next s ∧
    decode (wordA 0x1000 nnn) = .ok (.jp nnn) ∧
    (∃ t, exec (.jp nnn) s = .next t ∧ t = { s with pc := t.pc } ∧ t.pc.toNat = nnn.toNat) ∧
    decode (wordA 0xB000 nnn) = .ok (.jpV0 nnn) ∧
    ∃ t, exec (.jpV0 nnn) s = .next t ∧ t = { s with pc := t.pc } ∧ t.pc.toNat = nnn.toNat + (s.getV 0).toNat

/-- R102: with SP > 0, pc becomes the top entry, SP is one less and every entry keeps its value; with SP = 0,
STACK_UNDERFLOW is latched. -/
def Obligations.ReturnPopsTheStack : Prop :=
  decode 0x00EE = .ok .ret ∧
  (∀ (s : State) (d : Fin 16), s.sp.val = d.val + 1 →
    ∃ t, exec .ret s = .next t ∧ t = { s with pc := t.pc, sp := t.sp } ∧ t.pc = s.stack[d.val] ∧ t.sp.val = d.val) ∧
  (∀ s : State, s.sp.val = 0 → s.fault.code = .noFault → exec .ret s = .next (s.faultedBy .stackUnderflow 0x00EE))

/-- R104: with SP below 16, a call stores the advanced pc as the new top entry and jumps; with SP = 16, STACK_OVERFLOW is
latched. -/
def Obligations.CallPushesTheAdvancedPc : Prop :=
  ∀ (nnn : BitVec 12) (s : State), decode (wordA 0x2000 nnn) = .ok (.call nnn) ∧
    (∀ d : Fin 16, s.sp.val = d.val →
      ∃ t, exec (.call nnn) s = .next t ∧ t = { s with pc := t.pc, sp := t.sp, stack := t.stack } ∧
        t.pc.toNat = nnn.toNat ∧ t.sp.val = d.val + 1 ∧
        ∀ k : Fin 16, t.stack[k.val] = if k = d then s.pc else s.stack[k.val]) ∧
    (s.sp.val = 16 → s.fault.code = .noFault →
      exec (.call nnn) s = .next (s.faultedBy .stackOverflow (wordA 0x2000 nnn)))

/-- A call with room on the stack, then a return, comes back to the instruction after the call with the same depth. -/
def Obligations.CallThenReturnComesBack : Prop :=
  ∀ (nnn : BitVec 12) (s : State), s.sp.val < 16 →
    ∃ t u, exec (.call nnn) s = .next t ∧ exec .ret { t with pc := t.pc + 2 } = .next u ∧ u.pc = s.pc ∧ u.sp = s.sp ∧
      ∀ k : Fin 16, k.val < s.sp.val → u.stack[k.val] = s.stack[k.val]

/-! ### Skips (41_skips.md) -/

/-- R120 to R124: each skip that compares registers or an immediate adds 2 more to pc when its condition holds, and changes
nothing else. -/
def Obligations.ComparingSkipsAddTwoWhenTheirConditionHolds : Prop :=
  ∀ (x y : Reg) (nn : Byte) (s : State),
    (decode (wordXK 0x3000 x nn) = .ok (.seImm x nn) ∧
      exec (.seImm x nn) s = .next { s with pc := if s.getV x = nn then s.pc + 2 else s.pc }) ∧
    (decode (wordXK 0x4000 x nn) = .ok (.sneImm x nn) ∧
      exec (.sneImm x nn) s = .next { s with pc := if s.getV x = nn then s.pc else s.pc + 2 }) ∧
    (decode (wordXY 0x5000 x y) = .ok (.seReg x y) ∧
      exec (.seReg x y) s = .next { s with pc := if s.getV x = s.getV y then s.pc + 2 else s.pc }) ∧
    (decode (wordXY 0x9000 x y) = .ok (.sneReg x y) ∧
      exec (.sneReg x y) s = .next { s with pc := if s.getV x = s.getV y then s.pc else s.pc + 2 })

/-- R125 to R127: the key skips test the flag of key V[x] when V[x] is below 16; at 16 and above KEY_INDEX_OUT_OF_RANGE is
latched and nothing else changes. -/
def Obligations.KeySkipsTestTheKeyOrLatch : Prop :=
  ∀ (x : Reg) (s : State),
    decode (wordX 0xE09E x) = .ok (.skp x) ∧ decode (wordX 0xE0A1 x) = .ok (.sknp x) ∧
    (∀ k : Fin 16, (s.getV x).toNat = k.val →
      exec (.skp x) s = .next { s with pc := if s.keys[k.val] = true then s.pc + 2 else s.pc } ∧
      exec (.sknp x) s = .next { s with pc := if s.keys[k.val] = true then s.pc else s.pc + 2 }) ∧
    (16 ≤ (s.getV x).toNat → s.fault.code = .noFault →
      exec (.skp x) s = .next (s.faultedBy .keyIndexOutOfRange (wordX 0xE09E x)) ∧
      exec (.sknp x) s = .next (s.faultedBy .keyIndexOutOfRange (wordX 0xE0A1 x)))

/-! ### Arithmetic and logic (42_alu.md) -/

/-- R141 to R143: load immediate, add immediate modulo 256 with no flag, register copy. -/
def Obligations.LoadAddImmediateAndCopy : Prop :=
  ∀ (x y : Reg) (nn : Byte) (s : State),
    (decode (wordXK 0x6000 x nn) = .ok (.ldImm x nn) ∧
      ∃ t, exec (.ldImm x nn) s = .next t ∧ t = { s with v := t.v } ∧
        ∀ r, t.getV r = if r = x then nn else s.getV r) ∧
    (decode (wordXK 0x7000 x nn) = .ok (.addImm x nn) ∧
      ∃ t, exec (.addImm x nn) s = .next t ∧ t = { s with v := t.v } ∧
        ∀ r, (t.getV r).toNat = if r = x then ((s.getV x).toNat + nn.toNat) % 256 else (s.getV r).toNat) ∧
    (decode (wordXY 0x8000 x y) = .ok (.ldReg x y) ∧
      ∃ t, exec (.ldReg x y) s = .next t ∧ t = { s with v := t.v } ∧
        ∀ r, t.getV r = if r = x then s.getV y else s.getV r)

/-- R144 to R146: OR, AND and exclusive OR, bit by bit, with no flag: VF changes only where x = F. -/
def Obligations.LogicWorksBitByBit : Prop :=
  ∀ (x y : Reg) (s : State),
    (decode (wordXY 0x8001 x y) = .ok (.orReg x y) ∧
      ∃ t, exec (.orReg x y) s = .next t ∧ t = { s with v := t.v } ∧ (∀ r, r ≠ x → t.getV r = s.getV r) ∧
        ∀ k < 8, (t.getV x).getLsbD k = ((s.getV x).getLsbD k || (s.getV y).getLsbD k)) ∧
    (decode (wordXY 0x8002 x y) = .ok (.andReg x y) ∧
      ∃ t, exec (.andReg x y) s = .next t ∧ t = { s with v := t.v } ∧ (∀ r, r ≠ x → t.getV r = s.getV r) ∧
        ∀ k < 8, (t.getV x).getLsbD k = ((s.getV x).getLsbD k && (s.getV y).getLsbD k)) ∧
    (decode (wordXY 0x8003 x y) = .ok (.xorReg x y) ∧
      ∃ t, exec (.xorReg x y) s = .next t ∧ t = { s with v := t.v } ∧ (∀ r, r ≠ x → t.getV r = s.getV r) ∧
        ∀ k < 8, (t.getV x).getLsbD k = ((s.getV x).getLsbD k != (s.getV y).getLsbD k))

/-- R148: the sum modulo 256 in V[x], then VF = 1 when the exact sum is above 255, else 0; VF keeps the flag. -/
def Obligations.AddWithCarryOut : Prop :=
  ∀ (x y : Reg) (s : State), decode (wordXY 0x8004 x y) = .ok (.addReg x y) ∧
    ∃ t, exec (.addReg x y) s = .next t ∧ t = { s with v := t.v } ∧
      ∀ r, (t.getV r).toNat =
        if r = 15 then (if (s.getV x).toNat + (s.getV y).toNat > 255 then 1 else 0)
        else if r = x then ((s.getV x).toNat + (s.getV y).toNat) % 256
        else (s.getV r).toNat

/-- R149: V[x] − V[y] modulo 256 in V[x], then VF = 0 when V[x] < V[y], else 1. -/
def Obligations.SubtractWithNotBorrow : Prop :=
  ∀ (x y : Reg) (s : State), decode (wordXY 0x8005 x y) = .ok (.subReg x y) ∧
    ∃ t, exec (.subReg x y) s = .next t ∧ t = { s with v := t.v } ∧
      ∀ r, ((t.getV r).toNat : Int) =
        if r = 15 then (if (s.getV x).toNat < (s.getV y).toNat then 0 else 1)
        else if r = x then (((s.getV x).toNat : Int) - (s.getV y).toNat) % 256
        else (s.getV r).toNat

/-- R151: V[y] − V[x] modulo 256 in V[y], then VF = 0 when V[y] < V[x], else 1; V[x] is unchanged unless x = y or x = F. -/
def Obligations.ReversedSubtractWritesVy : Prop :=
  ∀ (x y : Reg) (s : State), decode (wordXY 0x8007 x y) = .ok (.subn x y) ∧
    ∃ t, exec (.subn x y) s = .next t ∧ t = { s with v := t.v } ∧
      ∀ r, ((t.getV r).toNat : Int) =
        if r = 15 then (if (s.getV y).toNat < (s.getV x).toNat then 0 else 1)
        else if r = y then (((s.getV y).toNat : Int) - (s.getV x).toNat) % 256
        else (s.getV r).toNat

/-- R150 and R152: V[x] is halved or doubled modulo 256 in place, and VF gets the bit shifted out; V[y] is not read. -/
def Obligations.ShiftsPutTheDroppedBitInVF : Prop :=
  ∀ (x y : Reg) (s : State),
    (decode (wordXY 0x8006 x y) = .ok (.shr x y) ∧
      ∃ t, exec (.shr x y) s = .next t ∧ t = { s with v := t.v } ∧
        ∀ r, (t.getV r).toNat =
          if r = 15 then (s.getV x).toNat % 2 else if r = x then (s.getV x).toNat / 2 else (s.getV r).toNat) ∧
    (decode (wordXY 0x800E x y) = .ok (.shl x y) ∧
      ∃ t, exec (.shl x y) s = .next t ∧ t = { s with v := t.v } ∧
        ∀ r, (t.getV r).toNat =
          if r = 15 then (s.getV x).toNat / 128 else if r = x then 2 * (s.getV x).toNat % 256 else (s.getV r).toNat)

/-- R155, for every byte the host can supply: V[x] gets the draw masked by nn, and one draw is taken. That a draw comes from
`rngQueue`, and from a free value where that is empty, is the model's choice (log entry 2); of the free draw only the clear
bits of nn are known. -/
def Obligations.RandomByteIsMaskedByTheImmediate : Prop :=
  ∀ (x : Reg) (nn : Byte) (s : State), decode (wordXK 0xC000 x nn) = .ok (.rnd x nn) ∧
    (∀ (r : Byte) (rest : List Byte), s.rngQueue = r :: rest →
      ∃ t, exec (.rnd x nn) s = .next t ∧ t = { s with v := t.v, rngQueue := rest, rngDraws := s.rngDraws + 1 } ∧
        ∀ q, t.getV q = if q = x then r &&& nn else s.getV q) ∧
    (∃ t, exec (.rnd x nn) s = .next t ∧
      t = { s with v := t.v, rngQueue := s.rngQueue.tail, rngDraws := s.rngDraws + 1 } ∧
      (∀ q, q ≠ x → t.getV q = s.getV q) ∧ ∀ k < 8, nn.getLsbD k = false → (t.getV x).getLsbD k = false)

/-! ### Index register and memory (43_index_memory.md) -/

/-- R171, R172, R173: I := nnn, I := V[x]·5 with no mask, I := I + V[x] modulo 2^16 with no flag. -/
def Obligations.IndexRegisterWrites : Prop :=
  ∀ (x : Reg) (nnn : BitVec 12) (s : State),
    (decode (wordA 0xA000 nnn) = .ok (.ldI nnn) ∧
      ∃ t, exec (.ldI nnn) s = .next t ∧ t = { s with I := t.I } ∧ t.I.toNat = nnn.toNat) ∧
    (decode (wordX 0xF029 x) = .ok (.ldGlyph x) ∧
      ∃ t, exec (.ldGlyph x) s = .next t ∧ t = { s with I := t.I } ∧ t.I.toNat = (s.getV x).toNat * 5) ∧
    (decode (wordX 0xF01E x) = .ok (.addI x) ∧
      ∃ t, exec (.addI x) s = .next t ∧ t = { s with I := t.I } ∧ t.I.toNat = (s.I.toNat + (s.getV x).toNat) % 65536)

/-- R175: the three decimal digits of V[x] at I, I + 1 and I + 2, every other byte as before; out of bounds under
OOB_POLICY = fault, MEM_OUT_OF_BOUNDS is latched and nothing is written. -/
def Obligations.BcdStoresThreeDigits : Prop :=
  ∀ (x : Reg) (s : State), decode (wordX 0xF033 x) = .ok (.storeBcd x) ∧
    (s.Accessible 3 → ∃ t, exec (.storeBcd x) s = .next t ∧ t = { s with mem := t.mem } ∧
      (t.readByte (s.indexedAddr 0)).toNat = (s.getV x).toNat / 100 ∧
      (t.readByte (s.indexedAddr 1)).toNat = (s.getV x).toNat / 10 % 10 ∧
      (t.readByte (s.indexedAddr 2)).toNat = (s.getV x).toNat % 10 ∧
      ∀ a, a ≠ s.indexedAddr 0 → a ≠ s.indexedAddr 1 → a ≠ s.indexedAddr 2 → t.readByte a = s.readByte a) ∧
    (¬ s.Accessible 3 → s.fault.code = .noFault →
      exec (.storeBcd x) s = .next (s.faultedBy .memOutOfBounds (wordX 0xF033 x)))

/-- R176: V0 to V[x] at I to I + x, every other byte and I as before; out of bounds under OOB_POLICY = fault,
MEM_OUT_OF_BOUNDS is latched and nothing is written. -/
def Obligations.StoreRegistersWritesTheirRange : Prop :=
  ∀ (x : Reg) (s : State), decode (wordX 0xF055 x) = .ok (.storeRegs x) ∧
    (s.Accessible (x.val + 1) → ∃ t, exec (.storeRegs x) s = .next t ∧ t = { s with mem := t.mem } ∧
      (∀ r : Reg, r.val ≤ x.val → t.readByte (s.indexedAddr r.val) = s.getV r) ∧
      ∀ a, (∀ r : Reg, r.val ≤ x.val → a ≠ s.indexedAddr r.val) → t.readByte a = s.readByte a) ∧
    (¬ s.Accessible (x.val + 1) → s.fault.code = .noFault →
      exec (.storeRegs x) s = .next (s.faultedBy .memOutOfBounds (wordX 0xF055 x)))

/-- R177: V0 to V[x] from I to I + x, the other registers and I as before; out of bounds under OOB_POLICY = fault,
MEM_OUT_OF_BOUNDS is latched and no register is written. -/
def Obligations.LoadRegistersReadsTheirRange : Prop :=
  ∀ (x : Reg) (s : State), decode (wordX 0xF065 x) = .ok (.loadRegs x) ∧
    (s.Accessible (x.val + 1) → ∃ t, exec (.loadRegs x) s = .next t ∧ t = { s with v := t.v } ∧
      ∀ r : Reg, t.getV r = if r.val ≤ x.val then s.readByte (s.indexedAddr r.val) else s.getV r) ∧
    (¬ s.Accessible (x.val + 1) → s.fault.code = .noFault →
      exec (.loadRegs x) s = .next (s.faultedBy .memOutOfBounds (wordX 0xF065 x)))

/-- R177's round trip: storing V0 to V[x] and then loading them, with the registers overwritten by anything in between,
gives the stored values back. -/
def Obligations.StoreThenLoadRestoresTheRegisters : Prop :=
  ∀ (x : Reg) (s : State) (v : Vector Byte 16), s.Accessible (x.val + 1) →
    ∃ t u, exec (.storeRegs x) s = .next t ∧ exec (.loadRegs x) { t with v := v } = .next u ∧ u.I = s.I ∧
      ∀ r : Reg, r.val ≤ x.val → u.getV r = s.getV r

/-- R54 and R63: a fetch at the address a store wrote sees the stored bytes, high byte first, with no delay. -/
def Obligations.StoredBytesAreFetchedAsTheNextWord : Prop :=
  ∀ (x : Reg) (s : State), 1 ≤ x.val → s.I.toNat + x.val ≤ 4095 → s.I = s.pc →
    ∃ t, exec (.storeRegs x) s = .next t ∧
      t.fetchWord = some (BitVec.ofNat 16 (256 * (s.getV 0).toNat + (s.getV 1).toNat))

/-! ### Display (44_display.md) -/

/-- R191: every cell false, whatever the framebuffer held, and nothing else changes. -/
def Obligations.ClearTurnsEveryCellOff : Prop :=
  decode 0x00E0 = .ok .cls ∧
  ∀ s : State, ∃ t, exec .cls s = .next t ∧ t = { s with fb := t.fb } ∧ ∀ c r, t.fb.cell c r = false

/-- R192: a draw toggles exactly the cells its sprite covers, VF is 1 exactly when a set cell was turned off and 0 otherwise,
and nothing else changes; out of bounds under OOB_POLICY = fault, MEM_OUT_OF_BOUNDS is latched and nothing changes, but
n = 0 never faults. -/
def Obligations.DrawTogglesTheCoveredCells : Prop :=
  ∀ (x y : Reg) (n : Fin 16) (s : State),
    decode (BitVec.ofNat 16 (0xD000 + 256 * x.val + 16 * y.val + n.val)) = .ok (.drw x y n) ∧
    (n.val = 0 ∨ s.Accessible n.val → ∃ t, exec (.drw x y n) s = .next t ∧ t = { s with v := t.v, fb := t.fb } ∧
      (∀ c r, t.fb.cell c r ≠ s.fb.cell c r ↔
        SpriteCovers (fun j => s.readByte (s.indexedAddr j)) n.val (s.coordinate x) (s.coordinate y) c r) ∧
      (∀ q, q ≠ 15 → t.getV q = s.getV q) ∧
      ((∃ c r, s.fb.cell c r = true ∧ t.fb.cell c r = false) → t.getV 15 = 1) ∧
      ((∀ c r, s.fb.cell c r = true → t.fb.cell c r = true) → t.getV 15 = 0)) ∧
    (n.val ≠ 0 → ¬ s.Accessible n.val → s.fault.code = .noFault →
      exec (.drw x y n) s =
        .next (s.faultedBy .memOutOfBounds (BitVec.ofNat 16 (0xD000 + 256 * x.val + 16 * y.val + n.val))))

/-- R193: drawing a sprite with at least one set bit twice, with no coordinate register VF, gives the framebuffer back; and
where the first draw met a blank framebuffer, it leaves VF = 0 and the second sets VF = 1. -/
def Obligations.DrawingTwiceErases : Prop :=
  ∀ (x y : Reg) (n : Fin 16) (s : State), x ≠ 15 → y ≠ 15 → (n.val = 0 ∨ s.Accessible n.val) →
    ∃ t u, exec (.drw x y n) s = .next t ∧ exec (.drw x y n) t = .next u ∧ u.fb = s.fb ∧
      ((∀ c r, s.fb.cell c r = false) → t.getV 15 = 0) ∧
      ((∀ c r, s.fb.cell c r = false) → (∃ j < n.val, s.readByte (s.indexedAddr j) ≠ 0) → u.getV 15 = 1)

/-! ### Timers and keys (45_timers_keys.md) -/

/-- R211, R212, R213: V[x] := DT, DT := V[x], ST := V[x]. -/
def Obligations.TimerMoves : Prop :=
  ∀ (x : Reg) (s : State),
    (decode (wordX 0xF007 x) = .ok (.ldFromDT x) ∧
      ∃ t, exec (.ldFromDT x) s = .next t ∧ t = { s with v := t.v } ∧ ∀ r, t.getV r = if r = x then s.dt else s.getV r) ∧
    (decode (wordX 0xF015 x) = .ok (.ldToDT x) ∧ exec (.ldToDT x) s = .next { s with dt := s.getV x }) ∧
    (decode (wordX 0xF018 x) = .ok (.ldToST x) ∧ exec (.ldToST x) s = .next { s with st := s.getV x })

/-- R214: V[x] gets the lowest pressed key; with none pressed pc moves on by 2 or back by 2 as WAITKEY_MODE says, and nothing
else changes. -/
def Obligations.WaitForKeyTakesTheLowestKey : Prop :=
  ∀ (x : Reg) (s : State), decode (wordX 0xF00A x) = .ok (.waitKey x) ∧
    (∀ k : Fin 16, s.keys[k.val] = true → (∀ j : Fin 16, j.val < k.val → s.keys[j.val] = false) →
      ∃ t, exec (.waitKey x) s = .next t ∧ t = { s with v := t.v } ∧
        ∀ r, (t.getV r).toNat = if r = x then k.val else (s.getV r).toNat) ∧
    ((∀ j : Fin 16, s.keys[j.val] = false) →
      exec (.waitKey x) s =
        .next { s with pc := if s.cfg.waitKeyMode = .skipForward then s.pc + 2 else s.pc - 2 })

/-! ### Host transactions (10_state.md, 45_timers_keys.md, 70_reset_and_hazards.md) -/

/-- R216 and R217: TICK decrements each timer, floored at 0, emits SOUND_EXPIRED exactly when ST goes from 1 to 0, and
changes nothing else. -/
def Obligations.TickDecrementsAndReportsExpiry : Prop :=
  ∀ s : State, ∃ t o, transact .tick s = .next (t, o) ∧ t = { s with dt := t.dt, st := t.st } ∧
    t.dt.toNat = s.dt.toNat - 1 ∧ t.st.toNat = s.st.toNat - 1 ∧
    (o = .soundExpired ↔ s.st.toNat = 1 ∧ t.st.toNat = 0) ∧ (o ≠ .soundExpired → o = .none)

/-- n TICKs in a row take each timer down by n, floored at 0, and emit SOUND_EXPIRED once if ST was running and ran out,
else never. -/
def Obligations.TicksInARowExpireOnce : Prop :=
  ∀ (n : Nat) (s : State), ∃ t os, transactAll (List.replicate n .tick) s = .next (t, os) ∧
    t = { s with dt := t.dt, st := t.st } ∧ t.dt.toNat = s.dt.toNat - n ∧ t.st.toNat = s.st.toNat - n ∧
    os.count .soundExpired = if 0 < s.st.toNat ∧ s.st.toNat ≤ n then 1 else 0

/-- R218: SET_KEY sets the flag of an index below 16; at 16 and above it latches SET_KEY_OUT_OF_RANGE with fpc = pc and
fword = 0, unless a fault is latched already, and no key changes. -/
def Obligations.SetKeySetsItsFlagOrLatches : Prop :=
  ∀ (s : State) (p : Bool),
    (∀ k : Fin 16, ∃ t, transact (.setKey k.val p) s = .next (t, .none) ∧ t = { s with keys := t.keys } ∧
      ∀ j : Fin 16, t.keys[j.val] = if j = k then p else s.keys[j.val]) ∧
    (∀ k : Nat, 16 ≤ k →
      (s.fault.code = .noFault →
        transact (.setKey k p) s = .next ({ s with fault := ⟨.setKeyOutOfRange, s.pc, 0⟩ }, .none)) ∧
      (s.fault.code ≠ .noFault → transact (.setKey k p) s = .next (s, .none)))

/-- R261: LOAD copies up to 3584 bytes to 0x200 and on and changes nothing else; a longer one latches LOAD_TOO_LARGE with
fpc = pc and fword = 0, unless a fault is latched already, and writes nothing. -/
def Obligations.LoadCopiesToProgramBase : Prop :=
  ∀ (s : State) (b : List Byte),
    (b.length ≤ 3584 → ∃ t, transact (.load b) s = .next (t, .none) ∧ t = { s with mem := t.mem } ∧
      (∀ (k : Nat) (hk : k < b.length) (a : Addr), a.val = 0x200 + k → t.readByte a = b[k]) ∧
      ∀ a : Addr, a.val < 0x200 ∨ 0x200 + b.length ≤ a.val → t.readByte a = s.readByte a) ∧
    (3584 < b.length →
      (s.fault.code = .noFault →
        transact (.load b) s = .next ({ s with fault := ⟨.loadTooLarge, s.pc, 0⟩ }, .none)) ∧
      (s.fault.code ≠ .noFault → transact (.load b) s = .next (s, .none)))

/-- RESET gives every element its reset value in every state, the halted one too, with FONT the machine's own. That it keeps
the parameters (log entry 14) and the two fields that record the RNG input (log entries 2 and 14) is the model's choice. -/
def Obligations.ResetTransactionGivesTheResetState : Prop :=
  ∀ s : State, ∃ t, transact .reset s = .next (t, .none) ∧
    (∀ r, t.getV r = 0) ∧ t.I = 0 ∧ t.pc = 0x200 ∧ t.sp = 0 ∧ (∀ k : Fin 16, t.stack[k.val] = 0) ∧ t.dt = 0 ∧ t.st = 0 ∧
    (∀ k : Fin 16, t.keys[k.val] = false) ∧ (∀ c r, t.fb.cell c r = false) ∧
    (∀ a : Addr, t.readByte a = if h : a.val < 80 then s.cfg.font[a.val] else 0) ∧
    t.fault = ⟨.noFault, 0, 0⟩ ∧ t.cfg = s.cfg ∧ t.rngQueue = s.rngQueue ∧ t.rngDraws = s.rngDraws

/-- R37: the machine right after power-on, its memory byte by byte, with FONT the machine's own; and RESET of any machine with
the same parameters, at the same place of the RNG input, gives the same state. -/
def Obligations.PowerOnState : Prop :=
  (∀ r, State.reset.getV r = 0) ∧ State.reset.I = 0 ∧ State.reset.pc = 0x200 ∧ State.reset.sp = 0 ∧
  (∀ k : Fin 16, State.reset.stack[k.val] = 0) ∧ State.reset.dt = 0 ∧ State.reset.st = 0 ∧
  (∀ k : Fin 16, State.reset.keys[k.val] = false) ∧ (∀ c r, State.reset.fb.cell c r = false) ∧
  (∀ a : Addr, State.reset.readByte a = if h : a.val < 80 then State.reset.cfg.font[a.val] else 0) ∧
  State.reset.fault.code.toNat = 0 ∧ State.reset.fault.fpc = 0 ∧ State.reset.fault.fword = 0 ∧
  (∀ s : State, s.cfg = State.reset.cfg → s.rngQueue = State.reset.rngQueue → s.rngDraws = State.reset.rngDraws →
    transact .reset s = .next (State.reset, .none))

/-- R263: RESET and then LOAD gives the state that constructing a machine with the same parameters and loading the same bytes
gives. -/
def Obligations.ResetThenLoadIsConstructThenLoad : Prop :=
  ∀ (s : State) (b : List Byte),
    transactAll [.reset, .load b] s =
      match transact (.load b) (State.resetWith s.cfg s.rngQueue s.rngDraws) with
      | .next (t, o) => .next (t, [.none, o])
      | .fault f => .fault f
      | .refused f => .refused f

/-- R194: READ_DISPLAY gives a copy of all 2048 cells in row-major order, column + 64·row, and changes no state; no other
transaction gives the host cells. -/
def Obligations.ReadDisplayCopiesRowMajor : Prop :=
  ∀ s : State,
    (∃ cells, transact .readDisplay s = .next (s, .display cells) ∧ cells.length = 2048 ∧
      ∀ (c : Fin 64) (r : Fin 32), cells[c.val + 64 * r.val]? = some (s.fb.cell c r)) ∧
    ∀ (tr : Transaction) (t : State) (cells : List Bool), transact tr s = .next (t, .display cells) → tr = .readDisplay

/-- A STEP transaction is the machine's step with the supplied byte as the next random draw; the byte is gone afterwards,
taken or not. -/
def Obligations.StepTransactionRunsOneStep : Prop :=
  ∀ (s : State) (r : Byte), ∃ t, step { s with rngQueue := r :: s.rngQueue } = .next t ∧
    transact (.step r) s = .next ({ t with rngQueue := s.rngQueue }, .none)

/-! ### What an instruction leaves alone: the frames -/

/-- R21 and R22: an instruction changes no general register but those the tables list for it, VF as a flag among them. -/
def Obligations.OnlyListedRegistersChange : Prop :=
  ∀ (i : Instr) (s t : State), exec i s = .next t → ∀ r, r ∉ writtenRegs i → t.getV r = s.getV r

/-- R53: every byte of memory outside the addresses an instruction stores to reads as before; only Fx33 and Fx55 store. -/
def Obligations.OnlyStoredBytesChange : Prop :=
  ∀ (i : Instr) (s t : State), exec i s = .next t → ∀ a, a ∉ storedAddrs i s → t.readByte a = s.readByte a

/-- R25: no instruction but Annn, Fx1E and Fx29 changes I; Fx55 and Fx65 leave it. -/
def Obligations.OnlyThreeInstructionsChangeI : Prop :=
  ∀ (i : Instr) (s t : State), exec i s = .next t → t.I ≠ s.I →
    (∃ nnn, i = .ldI nnn) ∨ (∃ x, i = .addI x) ∨ (∃ x, i = .ldGlyph x)

/-- R26: no instruction but 2nnn and 00EE changes the depth, and none but 2nnn changes an entry, which is then the one at the
old depth. -/
def Obligations.OnlyCallAndReturnTouchTheStack : Prop :=
  ∀ (i : Instr) (s t : State), exec i s = .next t →
    (t.sp ≠ s.sp → i = .ret ∨ ∃ nnn, i = .call nnn) ∧
    ∀ k : Fin 16, t.stack[k.val] ≠ s.stack[k.val] → (∃ nnn, i = .call nnn) ∧ k.val = s.sp.val

/-- R195: no instruction but 00E0 and Dxyn writes the framebuffer. -/
def Obligations.OnlyClearAndDrawWriteTheFramebuffer : Prop :=
  ∀ (i : Instr) (s t : State), exec i s = .next t → t.fb ≠ s.fb → i = .cls ∨ ∃ x y n, i = .drw x y n

/-- R210, R28, R160 and R8: no instruction changes DT but Fx15, ST but Fx18, or a key flag or parameter at all, and none but
Cxnn takes a random byte. -/
def Obligations.TimersKeysParametersAndDrawsAreLeftAlone : Prop :=
  ∀ (i : Instr) (s t : State), exec i s = .next t →
    t.keys = s.keys ∧ t.cfg = s.cfg ∧
    (t.dt ≠ s.dt → ∃ x, i = .ldToDT x) ∧ (t.st ≠ s.st → ∃ x, i = .ldToST x) ∧
    ((t.rngQueue ≠ s.rngQueue ∨ t.rngDraws ≠ s.rngDraws) → ∃ x nn, i = .rnd x nn)

/-- R24's first row: after an instruction that is no jump, call, return, skip or wait, pc is addr + 2, the value the step
advanced it to, whether or not the instruction raised a fault. -/
def Obligations.OnlyControlFlowMovesPc : Prop :=
  ∀ (i : Instr) (s t : State), exec i s = .next t → t.pc ≠ s.pc →
    i = .ret ∨ (∃ nnn, i = .jp nnn ∨ i = .call nnn ∨ i = .jpV0 nnn) ∨
    (∃ x nn, i = .seImm x nn ∨ i = .sneImm x nn) ∨ (∃ x y, i = .seReg x y ∨ i = .sneReg x y) ∨
    (∃ x, i = .skp x ∨ i = .sknp x ∨ i = .waitKey x)

/-! ### Faults (60_exceptions.md) -/

/-- R230, R233 and R234 for an instruction: executed with no fault latched, it latches exactly the fault its own check names
and then changes nothing else; where the check passes it latches none. -/
def Obligations.InstructionsFaultExactlyAsRuled : Prop :=
  ∀ (i : Instr) (s : State), s.fault.code = .noFault →
    (ownFault i s ≠ .noFault → exec i s = .next (s.faultedBy (ownFault i s) (encode i))) ∧
    (ownFault i s = .noFault → ∃ t, exec i s = .next t ∧ t.fault = s.fault)

/-- R233: a transaction that latches a fault changes nothing but the latch, and pc, which is advanced by 2 for a fault raised
during execution (codes 1, 2, 3, 5 and 7) and unchanged for the others. -/
def Obligations.FaultsArePrecise : Prop :=
  ∀ (tr : Transaction) (s t : State) (o : Output), s.fault.code = .noFault → transact tr s = .next (t, o) →
    t.fault.code ≠ .noFault →
    t = { s with pc := if t.fault.code.toNat ∈ [1, 2, 3, 5, 7] then s.pc + 2 else s.pc, fault := t.fault } ∧
    t.fault.fpc = s.pc

/-- R231: over any sequence of transactions with no RESET, a latched fault stays the one it is. -/
def Obligations.FirstFaultStaysUntilReset : Prop :=
  ∀ (ts : List Transaction) (s t : State) (os : List Output), s.fault.code ≠ .noFault → Transaction.reset ∉ ts →
    transactAll ts s = .next (t, os) → t.fault = s.fault

/-- No sequence of transactions ever ends in a fault or a refusal of the model: each transaction has a next state and one
output. -/
def Obligations.EveryTransactionSequenceRuns : Prop :=
  ∀ (ts : List Transaction) (s : State), ∃ t os, transactAll ts s = .next (t, os) ∧ os.length = ts.length

/-! ### Invariants -/

/-- The invariant holds of the machine right after reset, whatever its parameters and RNG input. -/
def Obligations.ResetStateHasTheInvariant : Prop :=
  State.reset.Inv ∧ ∀ (c : Config) (q : List Byte) (n : Nat), (State.resetWith c q n).Inv

/-- Every step keeps the invariant: memory stays in its canonical form, and the latch holds only what R230 lets it hold. -/
def Obligations.EveryStepKeepsTheInvariant : Prop :=
  ∀ s t : State, s.Inv → step s = .next t → t.Inv

/-- Every sequence of transactions keeps the invariant. -/
def Obligations.EveryTransactionSequenceKeepsTheInvariant : Prop :=
  ∀ (ts : List Transaction) (s t : State) (os : List Output), s.Inv → transactAll ts s = .next (t, os) → t.Inv

/-! ### What a program cannot learn -/

/-- R26 and R33: a stack entry at or above the depth can never be seen: two states that differ only in such entries take the
same transactions to states that differ only so, with the same outputs. -/
def Obligations.PoppedStackEntriesCannotBeSeen : Prop :=
  ∀ (ts : List Transaction) (s s' t : State) (os : List Output), s.SameButDeadStack s' → transactAll ts s = .next (t, os) →
    ∃ t', transactAll ts s' = .next (t', os) ∧ t.SameButDeadStack t'

/-- R27 and R210: no instruction reads ST: two states that differ only in ST step to states that differ only in ST. -/
def Obligations.NoInstructionReadsTheSoundTimer : Prop :=
  ∀ (s t : State) (b : Byte), step s = .next t → ∃ b', step { s with st := b } = .next { t with st := b' }

/-! ### The end of a run, and placing an instruction -/

/-- R275 and R103: in the idle state at a, a step changes nothing. -/
def Obligations.IdleStateIsAFixedPoint : Prop :=
  ∀ (s : State) (a : Word), s.runStatus = .idle a → s.pc = a ∧ s.fault.code = .noFault ∧ step s = .next s

/-- The host's placing of a word (the model's convention, log entry 7): the very next step runs it, in every state. -/
def Obligations.PlacedInstructionRunsNext : Prop :=
  ∀ (s : State) (i : Instr), ∃ t : State, step (s.withFetchWord 16 (encode i).toNat) = exec i t ∧
    t = { s.withFetchWord 16 (encode i).toNat with pc := t.pc } ∧
    t.pc = (s.withFetchWord 16 (encode i).toNat).pc + 2 ∧
    (s.fault.code = .noFault → s.pc.toNat + 1 ≤ 4095 →
      s.withFetchWord 16 (encode i).toNat = { s with mem := (s.withFetchWord 16 (encode i).toNat).mem })

end
end

