-- ==== Sys2Proof/Laws/Decode.lean ====
section
/-! SUPPORT. The value of each field and of each format's word (spec/30_encoding.md R72, R73), and the bytes of a word. -/

namespace Sys2Proof

open BitVec

@[simp] theorem nibble_toFin (r : Fin 16) : (nibble r).toFin = r := rfl

@[simp] theorem nibble_ofToFin (b : BitVec 4) : nibble b.toFin = b := rfl

theorem nibble_toNat (r : Fin 16) : (nibble r).toNat = r.val := rfl

/-! ### Values of the fields of a word -/

theorem fieldG_toNat (w : Word) : (fieldG w).toNat = w.toNat / 4096 % 16 := by
  simp [fieldG, Nat.shiftRight_eq_div_pow]
theorem fieldX_val (w : Word) : (fieldX w).val = w.toNat / 256 % 16 := by
  show (w.extractLsb' 8 4).toNat = _
  simp [Nat.shiftRight_eq_div_pow]
theorem fieldY_val (w : Word) : (fieldY w).val = w.toNat / 16 % 16 := by
  show (w.extractLsb' 4 4).toNat = _
  simp [Nat.shiftRight_eq_div_pow]
theorem fieldN_toNat (w : Word) : (fieldN w).toNat = w.toNat % 16 := by
  simp [fieldN]
theorem fieldNN_toNat (w : Word) : (fieldNN w).toNat = w.toNat % 256 := by
  simp [fieldNN]
theorem fieldNNN_toNat (w : Word) : (fieldNNN w).toNat = w.toNat % 4096 := by
  simp [fieldNNN]
theorem highByte_toNat (w : Word) : (highByte w).toNat = w.toNat / 256 % 256 := by
  simp [highByte, Nat.shiftRight_eq_div_pow]
theorem lowByte_toNat (w : Word) : (lowByte w).toNat = w.toNat % 256 := by
  simp [lowByte]

/-! ### Values of the words of each format -/

theorem formatA_toNat (g : BitVec 4) (nnn : BitVec 12) : (formatA g nnn).toNat = 4096 * g.toNat + nnn.toNat := by
  have h := nnn.isLt
  show (g ++ nnn).toNat = _
  rw [BitVec.toNat_append, ← Nat.shiftLeft_add_eq_or_of_lt h, Nat.shiftLeft_eq]
  omega

theorem wordOfBytes_toNat (hi lo : Byte) : (wordOfBytes hi lo).toNat = 256 * hi.toNat + lo.toNat := by
  have h := lo.isLt
  show (hi ++ lo).toNat = _
  rw [BitVec.toNat_append, ← Nat.shiftLeft_add_eq_or_of_lt h, Nat.shiftLeft_eq]
  omega

theorem formatXK_toNat (g : BitVec 4) (x : Reg) (nn : Byte) :
    (formatXK g x nn).toNat = 4096 * g.toNat + 256 * x.val + nn.toNat := by
  have h := nn.isLt
  have h' := (nibble x).isLt
  show (g ++ nibble x ++ nn).toNat = _
  rw [BitVec.toNat_append, ← Nat.shiftLeft_add_eq_or_of_lt h, BitVec.toNat_append,
    ← Nat.shiftLeft_add_eq_or_of_lt h', Nat.shiftLeft_eq, Nat.shiftLeft_eq, nibble_toNat]
  omega

theorem formatXYN_toNat (g : BitVec 4) (x y : Reg) (n : BitVec 4) :
    (formatXYN g x y n).toNat = 4096 * g.toNat + 256 * x.val + 16 * y.val + n.toNat := by
  have hn := n.isLt
  have hx := (nibble x).isLt
  have hy := (nibble y).isLt
  show (g ++ nibble x ++ nibble y ++ n).toNat = _
  rw [BitVec.toNat_append, ← Nat.shiftLeft_add_eq_or_of_lt hn, BitVec.toNat_append,
    ← Nat.shiftLeft_add_eq_or_of_lt hy, BitVec.toNat_append, ← Nat.shiftLeft_add_eq_or_of_lt hx, Nat.shiftLeft_eq,
    Nat.shiftLeft_eq, Nat.shiftLeft_eq, nibble_toNat, nibble_toNat]
  omega

/-! ### The fields of each format -/

@[simp] theorem fieldG_formatA (g : BitVec 4) (nnn : BitVec 12) : fieldG (formatA g nnn) = g := by
  apply BitVec.eq_of_toNat_eq; rw [fieldG_toNat, formatA_toNat]; omega
@[simp] theorem fieldNNN_formatA (g : BitVec 4) (nnn : BitVec 12) : fieldNNN (formatA g nnn) = nnn := by
  apply BitVec.eq_of_toNat_eq; rw [fieldNNN_toNat, formatA_toNat]; omega

@[simp] theorem fieldG_formatXK (g : BitVec 4) (x : Reg) (nn : Byte) : fieldG (formatXK g x nn) = g := by
  apply BitVec.eq_of_toNat_eq; rw [fieldG_toNat, formatXK_toNat]; omega
@[simp] theorem fieldX_formatXK (g : BitVec 4) (x : Reg) (nn : Byte) : fieldX (formatXK g x nn) = x := by
  apply Fin.ext; rw [fieldX_val, formatXK_toNat]; omega
@[simp] theorem fieldNN_formatXK (g : BitVec 4) (x : Reg) (nn : Byte) : fieldNN (formatXK g x nn) = nn := by
  apply BitVec.eq_of_toNat_eq; rw [fieldNN_toNat, formatXK_toNat]; omega

@[simp] theorem fieldG_formatXYN (g : BitVec 4) (x y : Reg) (n : BitVec 4) : fieldG (formatXYN g x y n) = g := by
  apply BitVec.eq_of_toNat_eq; rw [fieldG_toNat, formatXYN_toNat]; omega
@[simp] theorem fieldX_formatXYN (g : BitVec 4) (x y : Reg) (n : BitVec 4) : fieldX (formatXYN g x y n) = x := by
  apply Fin.ext; rw [fieldX_val, formatXYN_toNat]; omega
@[simp] theorem fieldY_formatXYN (g : BitVec 4) (x y : Reg) (n : BitVec 4) : fieldY (formatXYN g x y n) = y := by
  apply Fin.ext; rw [fieldY_val, formatXYN_toNat]; omega
@[simp] theorem fieldN_formatXYN (g : BitVec 4) (x y : Reg) (n : BitVec 4) : fieldN (formatXYN g x y n) = n := by
  apply BitVec.eq_of_toNat_eq; rw [fieldN_toNat, formatXYN_toNat]; omega

/-! ### A word is made of its fields, and of its bytes -/

theorem formatA_fields (w : Word) : formatA (fieldG w) (fieldNNN w) = w := by
  apply BitVec.eq_of_toNat_eq; rw [formatA_toNat, fieldG_toNat, fieldNNN_toNat]; omega
theorem formatXK_fields (w : Word) : formatXK (fieldG w) (fieldX w) (fieldNN w) = w := by
  apply BitVec.eq_of_toNat_eq; rw [formatXK_toNat, fieldG_toNat, fieldX_val, fieldNN_toNat]; omega
theorem formatXYN_fields (w : Word) : formatXYN (fieldG w) (fieldX w) (fieldY w) (fieldN w) = w := by
  apply BitVec.eq_of_toNat_eq; rw [formatXYN_toNat, fieldG_toNat, fieldX_val, fieldY_val, fieldN_toNat]; omega

@[simp] theorem wordOfBytes_high_low (w : Word) : wordOfBytes (highByte w) (lowByte w) = w := by
  apply BitVec.eq_of_toNat_eq; rw [wordOfBytes_toNat, highByte_toNat, lowByte_toNat]; omega
@[simp] theorem highByte_wordOfBytes (hi lo : Byte) : highByte (wordOfBytes hi lo) = hi := by
  apply BitVec.eq_of_toNat_eq; rw [highByte_toNat, wordOfBytes_toNat]; omega
@[simp] theorem lowByte_wordOfBytes (hi lo : Byte) : lowByte (wordOfBytes hi lo) = lo := by
  apply BitVec.eq_of_toNat_eq; rw [lowByte_toNat, wordOfBytes_toNat]; omega

/-- The word of the table is the number, where the number has no bit above the row's. -/
theorem tableWord_toNat (w : Word) : tableWord 16 w.toNat = w := by
  apply BitVec.eq_of_toNat_eq
  simp only [tableWord, BitVec.toNat_ofNat]
  omega

end Sys2Proof
end

