-- ==== Sys2Proof/Laws/State.lean ====
section
/-! SUPPORT. One lemma per field of State per named update, each true by rfl, so that no later proof unfolds a record
update; and the same for the shared operations whose body is a case split or a recursion. -/

namespace Sys2Proof.Machine

/-! ### setV -/

@[simp] theorem State.setV_v (s : State) (r : Reg) (b : Byte) : (s.setV r b).v = s.v.set r.val b := rfl
@[simp] theorem State.setV_I (s : State) (r : Reg) (b : Byte) : (s.setV r b).I = s.I := rfl
@[simp] theorem State.setV_pc (s : State) (r : Reg) (b : Byte) : (s.setV r b).pc = s.pc := rfl
@[simp] theorem State.setV_sp (s : State) (r : Reg) (b : Byte) : (s.setV r b).sp = s.sp := rfl
@[simp] theorem State.setV_stack (s : State) (r : Reg) (b : Byte) : (s.setV r b).stack = s.stack := rfl
@[simp] theorem State.setV_dt (s : State) (r : Reg) (b : Byte) : (s.setV r b).dt = s.dt := rfl
@[simp] theorem State.setV_st (s : State) (r : Reg) (b : Byte) : (s.setV r b).st = s.st := rfl
@[simp] theorem State.setV_keys (s : State) (r : Reg) (b : Byte) : (s.setV r b).keys = s.keys := rfl
@[simp] theorem State.setV_fb (s : State) (r : Reg) (b : Byte) : (s.setV r b).fb = s.fb := rfl
@[simp] theorem State.setV_mem (s : State) (r : Reg) (b : Byte) : (s.setV r b).mem = s.mem := rfl
@[simp] theorem State.setV_fault (s : State) (r : Reg) (b : Byte) : (s.setV r b).fault = s.fault := rfl
@[simp] theorem State.setV_cfg (s : State) (r : Reg) (b : Byte) : (s.setV r b).cfg = s.cfg := rfl
@[simp] theorem State.setV_rngQueue (s : State) (r : Reg) (b : Byte) : (s.setV r b).rngQueue = s.rngQueue := rfl
@[simp] theorem State.setV_rngDraws (s : State) (r : Reg) (b : Byte) : (s.setV r b).rngDraws = s.rngDraws := rfl

/-! ### setPc -/

@[simp] theorem State.setPc_v (s : State) (w : Word) : (s.setPc w).v = s.v := rfl
@[simp] theorem State.setPc_I (s : State) (w : Word) : (s.setPc w).I = s.I := rfl
@[simp] theorem State.setPc_pc (s : State) (w : Word) : (s.setPc w).pc = w := rfl
@[simp] theorem State.setPc_sp (s : State) (w : Word) : (s.setPc w).sp = s.sp := rfl
@[simp] theorem State.setPc_stack (s : State) (w : Word) : (s.setPc w).stack = s.stack := rfl
@[simp] theorem State.setPc_dt (s : State) (w : Word) : (s.setPc w).dt = s.dt := rfl
@[simp] theorem State.setPc_st (s : State) (w : Word) : (s.setPc w).st = s.st := rfl
@[simp] theorem State.setPc_keys (s : State) (w : Word) : (s.setPc w).keys = s.keys := rfl
@[simp] theorem State.setPc_fb (s : State) (w : Word) : (s.setPc w).fb = s.fb := rfl
@[simp] theorem State.setPc_mem (s : State) (w : Word) : (s.setPc w).mem = s.mem := rfl
@[simp] theorem State.setPc_fault (s : State) (w : Word) : (s.setPc w).fault = s.fault := rfl
@[simp] theorem State.setPc_cfg (s : State) (w : Word) : (s.setPc w).cfg = s.cfg := rfl
@[simp] theorem State.setPc_rngQueue (s : State) (w : Word) : (s.setPc w).rngQueue = s.rngQueue := rfl
@[simp] theorem State.setPc_rngDraws (s : State) (w : Word) : (s.setPc w).rngDraws = s.rngDraws := rfl

/-! ### advancePc -/

@[simp] theorem State.advancePc_v (s : State) : (s.advancePc).v = s.v := rfl
@[simp] theorem State.advancePc_I (s : State) : (s.advancePc).I = s.I := rfl
@[simp] theorem State.advancePc_pc (s : State) : (s.advancePc).pc = s.pc + 2 := rfl
@[simp] theorem State.advancePc_sp (s : State) : (s.advancePc).sp = s.sp := rfl
@[simp] theorem State.advancePc_stack (s : State) : (s.advancePc).stack = s.stack := rfl
@[simp] theorem State.advancePc_dt (s : State) : (s.advancePc).dt = s.dt := rfl
@[simp] theorem State.advancePc_st (s : State) : (s.advancePc).st = s.st := rfl
@[simp] theorem State.advancePc_keys (s : State) : (s.advancePc).keys = s.keys := rfl
@[simp] theorem State.advancePc_fb (s : State) : (s.advancePc).fb = s.fb := rfl
@[simp] theorem State.advancePc_mem (s : State) : (s.advancePc).mem = s.mem := rfl
@[simp] theorem State.advancePc_fault (s : State) : (s.advancePc).fault = s.fault := rfl
@[simp] theorem State.advancePc_cfg (s : State) : (s.advancePc).cfg = s.cfg := rfl
@[simp] theorem State.advancePc_rngQueue (s : State) : (s.advancePc).rngQueue = s.rngQueue := rfl
@[simp] theorem State.advancePc_rngDraws (s : State) : (s.advancePc).rngDraws = s.rngDraws := rfl

/-! ### setI -/

@[simp] theorem State.setI_v (s : State) (w : Word) : (s.setI w).v = s.v := rfl
@[simp] theorem State.setI_I (s : State) (w : Word) : (s.setI w).I = w := rfl
@[simp] theorem State.setI_pc (s : State) (w : Word) : (s.setI w).pc = s.pc := rfl
@[simp] theorem State.setI_sp (s : State) (w : Word) : (s.setI w).sp = s.sp := rfl
@[simp] theorem State.setI_stack (s : State) (w : Word) : (s.setI w).stack = s.stack := rfl
@[simp] theorem State.setI_dt (s : State) (w : Word) : (s.setI w).dt = s.dt := rfl
@[simp] theorem State.setI_st (s : State) (w : Word) : (s.setI w).st = s.st := rfl
@[simp] theorem State.setI_keys (s : State) (w : Word) : (s.setI w).keys = s.keys := rfl
@[simp] theorem State.setI_fb (s : State) (w : Word) : (s.setI w).fb = s.fb := rfl
@[simp] theorem State.setI_mem (s : State) (w : Word) : (s.setI w).mem = s.mem := rfl
@[simp] theorem State.setI_fault (s : State) (w : Word) : (s.setI w).fault = s.fault := rfl
@[simp] theorem State.setI_cfg (s : State) (w : Word) : (s.setI w).cfg = s.cfg := rfl
@[simp] theorem State.setI_rngQueue (s : State) (w : Word) : (s.setI w).rngQueue = s.rngQueue := rfl
@[simp] theorem State.setI_rngDraws (s : State) (w : Word) : (s.setI w).rngDraws = s.rngDraws := rfl

/-! ### setDT -/

@[simp] theorem State.setDT_v (s : State) (b : Byte) : (s.setDT b).v = s.v := rfl
@[simp] theorem State.setDT_I (s : State) (b : Byte) : (s.setDT b).I = s.I := rfl
@[simp] theorem State.setDT_pc (s : State) (b : Byte) : (s.setDT b).pc = s.pc := rfl
@[simp] theorem State.setDT_sp (s : State) (b : Byte) : (s.setDT b).sp = s.sp := rfl
@[simp] theorem State.setDT_stack (s : State) (b : Byte) : (s.setDT b).stack = s.stack := rfl
@[simp] theorem State.setDT_dt (s : State) (b : Byte) : (s.setDT b).dt = b := rfl
@[simp] theorem State.setDT_st (s : State) (b : Byte) : (s.setDT b).st = s.st := rfl
@[simp] theorem State.setDT_keys (s : State) (b : Byte) : (s.setDT b).keys = s.keys := rfl
@[simp] theorem State.setDT_fb (s : State) (b : Byte) : (s.setDT b).fb = s.fb := rfl
@[simp] theorem State.setDT_mem (s : State) (b : Byte) : (s.setDT b).mem = s.mem := rfl
@[simp] theorem State.setDT_fault (s : State) (b : Byte) : (s.setDT b).fault = s.fault := rfl
@[simp] theorem State.setDT_cfg (s : State) (b : Byte) : (s.setDT b).cfg = s.cfg := rfl
@[simp] theorem State.setDT_rngQueue (s : State) (b : Byte) : (s.setDT b).rngQueue = s.rngQueue := rfl
@[simp] theorem State.setDT_rngDraws (s : State) (b : Byte) : (s.setDT b).rngDraws = s.rngDraws := rfl

/-! ### setST -/

@[simp] theorem State.setST_v (s : State) (b : Byte) : (s.setST b).v = s.v := rfl
@[simp] theorem State.setST_I (s : State) (b : Byte) : (s.setST b).I = s.I := rfl
@[simp] theorem State.setST_pc (s : State) (b : Byte) : (s.setST b).pc = s.pc := rfl
@[simp] theorem State.setST_sp (s : State) (b : Byte) : (s.setST b).sp = s.sp := rfl
@[simp] theorem State.setST_stack (s : State) (b : Byte) : (s.setST b).stack = s.stack := rfl
@[simp] theorem State.setST_dt (s : State) (b : Byte) : (s.setST b).dt = s.dt := rfl
@[simp] theorem State.setST_st (s : State) (b : Byte) : (s.setST b).st = b := rfl
@[simp] theorem State.setST_keys (s : State) (b : Byte) : (s.setST b).keys = s.keys := rfl
@[simp] theorem State.setST_fb (s : State) (b : Byte) : (s.setST b).fb = s.fb := rfl
@[simp] theorem State.setST_mem (s : State) (b : Byte) : (s.setST b).mem = s.mem := rfl
@[simp] theorem State.setST_fault (s : State) (b : Byte) : (s.setST b).fault = s.fault := rfl
@[simp] theorem State.setST_cfg (s : State) (b : Byte) : (s.setST b).cfg = s.cfg := rfl
@[simp] theorem State.setST_rngQueue (s : State) (b : Byte) : (s.setST b).rngQueue = s.rngQueue := rfl
@[simp] theorem State.setST_rngDraws (s : State) (b : Byte) : (s.setST b).rngDraws = s.rngDraws := rfl

/-! ### setFb -/

@[simp] theorem State.setFb_v (s : State) (fb : Framebuffer) : (s.setFb fb).v = s.v := rfl
@[simp] theorem State.setFb_I (s : State) (fb : Framebuffer) : (s.setFb fb).I = s.I := rfl
@[simp] theorem State.setFb_pc (s : State) (fb : Framebuffer) : (s.setFb fb).pc = s.pc := rfl
@[simp] theorem State.setFb_sp (s : State) (fb : Framebuffer) : (s.setFb fb).sp = s.sp := rfl
@[simp] theorem State.setFb_stack (s : State) (fb : Framebuffer) : (s.setFb fb).stack = s.stack := rfl
@[simp] theorem State.setFb_dt (s : State) (fb : Framebuffer) : (s.setFb fb).dt = s.dt := rfl
@[simp] theorem State.setFb_st (s : State) (fb : Framebuffer) : (s.setFb fb).st = s.st := rfl
@[simp] theorem State.setFb_keys (s : State) (fb : Framebuffer) : (s.setFb fb).keys = s.keys := rfl
@[simp] theorem State.setFb_fb (s : State) (fb : Framebuffer) : (s.setFb fb).fb = fb := rfl
@[simp] theorem State.setFb_mem (s : State) (fb : Framebuffer) : (s.setFb fb).mem = s.mem := rfl
@[simp] theorem State.setFb_fault (s : State) (fb : Framebuffer) : (s.setFb fb).fault = s.fault := rfl
@[simp] theorem State.setFb_cfg (s : State) (fb : Framebuffer) : (s.setFb fb).cfg = s.cfg := rfl
@[simp] theorem State.setFb_rngQueue (s : State) (fb : Framebuffer) : (s.setFb fb).rngQueue = s.rngQueue := rfl
@[simp] theorem State.setFb_rngDraws (s : State) (fb : Framebuffer) : (s.setFb fb).rngDraws = s.rngDraws := rfl

/-! ### setKeyFlag -/

@[simp] theorem State.setKeyFlag_v (s : State) (k : Fin 16) (p : Bool) : (s.setKeyFlag k p).v = s.v := rfl
@[simp] theorem State.setKeyFlag_I (s : State) (k : Fin 16) (p : Bool) : (s.setKeyFlag k p).I = s.I := rfl
@[simp] theorem State.setKeyFlag_pc (s : State) (k : Fin 16) (p : Bool) : (s.setKeyFlag k p).pc = s.pc := rfl
@[simp] theorem State.setKeyFlag_sp (s : State) (k : Fin 16) (p : Bool) : (s.setKeyFlag k p).sp = s.sp := rfl
@[simp] theorem State.setKeyFlag_stack (s : State) (k : Fin 16) (p : Bool) : (s.setKeyFlag k p).stack = s.stack := rfl
@[simp] theorem State.setKeyFlag_dt (s : State) (k : Fin 16) (p : Bool) : (s.setKeyFlag k p).dt = s.dt := rfl
@[simp] theorem State.setKeyFlag_st (s : State) (k : Fin 16) (p : Bool) : (s.setKeyFlag k p).st = s.st := rfl
@[simp] theorem State.setKeyFlag_keys (s : State) (k : Fin 16) (p : Bool) : (s.setKeyFlag k p).keys = s.keys.set k.val p := rfl
@[simp] theorem State.setKeyFlag_fb (s : State) (k : Fin 16) (p : Bool) : (s.setKeyFlag k p).fb = s.fb := rfl
@[simp] theorem State.setKeyFlag_mem (s : State) (k : Fin 16) (p : Bool) : (s.setKeyFlag k p).mem = s.mem := rfl
@[simp] theorem State.setKeyFlag_fault (s : State) (k : Fin 16) (p : Bool) : (s.setKeyFlag k p).fault = s.fault := rfl
@[simp] theorem State.setKeyFlag_cfg (s : State) (k : Fin 16) (p : Bool) : (s.setKeyFlag k p).cfg = s.cfg := rfl
@[simp] theorem State.setKeyFlag_rngQueue (s : State) (k : Fin 16) (p : Bool) : (s.setKeyFlag k p).rngQueue = s.rngQueue := rfl
@[simp] theorem State.setKeyFlag_rngDraws (s : State) (k : Fin 16) (p : Bool) : (s.setKeyFlag k p).rngDraws = s.rngDraws := rfl

/-! ### writeByte -/

@[simp] theorem State.writeByte_v (s : State) (a : Addr) (b : Byte) : (s.writeByte a b).v = s.v := rfl
@[simp] theorem State.writeByte_I (s : State) (a : Addr) (b : Byte) : (s.writeByte a b).I = s.I := rfl
@[simp] theorem State.writeByte_pc (s : State) (a : Addr) (b : Byte) : (s.writeByte a b).pc = s.pc := rfl
@[simp] theorem State.writeByte_sp (s : State) (a : Addr) (b : Byte) : (s.writeByte a b).sp = s.sp := rfl
@[simp] theorem State.writeByte_stack (s : State) (a : Addr) (b : Byte) : (s.writeByte a b).stack = s.stack := rfl
@[simp] theorem State.writeByte_dt (s : State) (a : Addr) (b : Byte) : (s.writeByte a b).dt = s.dt := rfl
@[simp] theorem State.writeByte_st (s : State) (a : Addr) (b : Byte) : (s.writeByte a b).st = s.st := rfl
@[simp] theorem State.writeByte_keys (s : State) (a : Addr) (b : Byte) : (s.writeByte a b).keys = s.keys := rfl
@[simp] theorem State.writeByte_fb (s : State) (a : Addr) (b : Byte) : (s.writeByte a b).fb = s.fb := rfl
@[simp] theorem State.writeByte_mem (s : State) (a : Addr) (b : Byte) : (s.writeByte a b).mem = s.mem.write s.cfg a.val b := rfl
@[simp] theorem State.writeByte_fault (s : State) (a : Addr) (b : Byte) : (s.writeByte a b).fault = s.fault := rfl
@[simp] theorem State.writeByte_cfg (s : State) (a : Addr) (b : Byte) : (s.writeByte a b).cfg = s.cfg := rfl
@[simp] theorem State.writeByte_rngQueue (s : State) (a : Addr) (b : Byte) : (s.writeByte a b).rngQueue = s.rngQueue := rfl
@[simp] theorem State.writeByte_rngDraws (s : State) (a : Addr) (b : Byte) : (s.writeByte a b).rngDraws = s.rngDraws := rfl

/-! ### drawTaken -/

@[simp] theorem State.drawTaken_v (s : State) : (s.drawTaken).v = s.v := rfl
@[simp] theorem State.drawTaken_I (s : State) : (s.drawTaken).I = s.I := rfl
@[simp] theorem State.drawTaken_pc (s : State) : (s.drawTaken).pc = s.pc := rfl
@[simp] theorem State.drawTaken_sp (s : State) : (s.drawTaken).sp = s.sp := rfl
@[simp] theorem State.drawTaken_stack (s : State) : (s.drawTaken).stack = s.stack := rfl
@[simp] theorem State.drawTaken_dt (s : State) : (s.drawTaken).dt = s.dt := rfl
@[simp] theorem State.drawTaken_st (s : State) : (s.drawTaken).st = s.st := rfl
@[simp] theorem State.drawTaken_keys (s : State) : (s.drawTaken).keys = s.keys := rfl
@[simp] theorem State.drawTaken_fb (s : State) : (s.drawTaken).fb = s.fb := rfl
@[simp] theorem State.drawTaken_mem (s : State) : (s.drawTaken).mem = s.mem := rfl
@[simp] theorem State.drawTaken_fault (s : State) : (s.drawTaken).fault = s.fault := rfl
@[simp] theorem State.drawTaken_cfg (s : State) : (s.drawTaken).cfg = s.cfg := rfl
@[simp] theorem State.drawTaken_rngQueue (s : State) : (s.drawTaken).rngQueue = s.rngQueue.tail := rfl
@[simp] theorem State.drawTaken_rngDraws (s : State) : (s.drawTaken).rngDraws = s.rngDraws + 1 := rfl

/-! ### offerRandom -/

@[simp] theorem State.offerRandom_v (s : State) (r : Byte) : (s.offerRandom r).v = s.v := rfl
@[simp] theorem State.offerRandom_I (s : State) (r : Byte) : (s.offerRandom r).I = s.I := rfl
@[simp] theorem State.offerRandom_pc (s : State) (r : Byte) : (s.offerRandom r).pc = s.pc := rfl
@[simp] theorem State.offerRandom_sp (s : State) (r : Byte) : (s.offerRandom r).sp = s.sp := rfl
@[simp] theorem State.offerRandom_stack (s : State) (r : Byte) : (s.offerRandom r).stack = s.stack := rfl
@[simp] theorem State.offerRandom_dt (s : State) (r : Byte) : (s.offerRandom r).dt = s.dt := rfl
@[simp] theorem State.offerRandom_st (s : State) (r : Byte) : (s.offerRandom r).st = s.st := rfl
@[simp] theorem State.offerRandom_keys (s : State) (r : Byte) : (s.offerRandom r).keys = s.keys := rfl
@[simp] theorem State.offerRandom_fb (s : State) (r : Byte) : (s.offerRandom r).fb = s.fb := rfl
@[simp] theorem State.offerRandom_mem (s : State) (r : Byte) : (s.offerRandom r).mem = s.mem := rfl
@[simp] theorem State.offerRandom_fault (s : State) (r : Byte) : (s.offerRandom r).fault = s.fault := rfl
@[simp] theorem State.offerRandom_cfg (s : State) (r : Byte) : (s.offerRandom r).cfg = s.cfg := rfl
@[simp] theorem State.offerRandom_rngQueue (s : State) (r : Byte) : (s.offerRandom r).rngQueue = r :: s.rngQueue := rfl
@[simp] theorem State.offerRandom_rngDraws (s : State) (r : Byte) : (s.offerRandom r).rngDraws = s.rngDraws := rfl

/-! ### withQueue -/

@[simp] theorem State.withQueue_v (s : State) (q : List Byte) : (s.withQueue q).v = s.v := rfl
@[simp] theorem State.withQueue_I (s : State) (q : List Byte) : (s.withQueue q).I = s.I := rfl
@[simp] theorem State.withQueue_pc (s : State) (q : List Byte) : (s.withQueue q).pc = s.pc := rfl
@[simp] theorem State.withQueue_sp (s : State) (q : List Byte) : (s.withQueue q).sp = s.sp := rfl
@[simp] theorem State.withQueue_stack (s : State) (q : List Byte) : (s.withQueue q).stack = s.stack := rfl
@[simp] theorem State.withQueue_dt (s : State) (q : List Byte) : (s.withQueue q).dt = s.dt := rfl
@[simp] theorem State.withQueue_st (s : State) (q : List Byte) : (s.withQueue q).st = s.st := rfl
@[simp] theorem State.withQueue_keys (s : State) (q : List Byte) : (s.withQueue q).keys = s.keys := rfl
@[simp] theorem State.withQueue_fb (s : State) (q : List Byte) : (s.withQueue q).fb = s.fb := rfl
@[simp] theorem State.withQueue_mem (s : State) (q : List Byte) : (s.withQueue q).mem = s.mem := rfl
@[simp] theorem State.withQueue_fault (s : State) (q : List Byte) : (s.withQueue q).fault = s.fault := rfl
@[simp] theorem State.withQueue_cfg (s : State) (q : List Byte) : (s.withQueue q).cfg = s.cfg := rfl
@[simp] theorem State.withQueue_rngQueue (s : State) (q : List Byte) : (s.withQueue q).rngQueue = q := rfl
@[simp] theorem State.withQueue_rngDraws (s : State) (q : List Byte) : (s.withQueue q).rngDraws = s.rngDraws := rfl

/-! ### resetWith -/

@[simp] theorem State.resetWith_v (c : Config) (q : List Byte) (n : Nat) : (State.resetWith c q n).v = Vector.replicate 16 0 := rfl
@[simp] theorem State.resetWith_I (c : Config) (q : List Byte) (n : Nat) : (State.resetWith c q n).I = 0 := rfl
@[simp] theorem State.resetWith_pc (c : Config) (q : List Byte) (n : Nat) : (State.resetWith c q n).pc = 0x200 := rfl
@[simp] theorem State.resetWith_sp (c : Config) (q : List Byte) (n : Nat) : (State.resetWith c q n).sp = 0 := rfl
@[simp] theorem State.resetWith_stack (c : Config) (q : List Byte) (n : Nat) : (State.resetWith c q n).stack = Vector.replicate 16 0 := rfl
@[simp] theorem State.resetWith_dt (c : Config) (q : List Byte) (n : Nat) : (State.resetWith c q n).dt = 0 := rfl
@[simp] theorem State.resetWith_st (c : Config) (q : List Byte) (n : Nat) : (State.resetWith c q n).st = 0 := rfl
@[simp] theorem State.resetWith_keys (c : Config) (q : List Byte) (n : Nat) : (State.resetWith c q n).keys = Vector.replicate 16 false := rfl
@[simp] theorem State.resetWith_fb (c : Config) (q : List Byte) (n : Nat) : (State.resetWith c q n).fb = Framebuffer.blank := rfl
@[simp] theorem State.resetWith_mem (c : Config) (q : List Byte) (n : Nat) : (State.resetWith c q n).mem = [] := rfl
@[simp] theorem State.resetWith_fault (c : Config) (q : List Byte) (n : Nat) : (State.resetWith c q n).fault = FaultLatch.clear := rfl
@[simp] theorem State.resetWith_cfg (c : Config) (q : List Byte) (n : Nat) : (State.resetWith c q n).cfg = c := rfl
@[simp] theorem State.resetWith_rngQueue (c : Config) (q : List Byte) (n : Nat) : (State.resetWith c q n).rngQueue = q := rfl
@[simp] theorem State.resetWith_rngDraws (c : Config) (q : List Byte) (n : Nat) : (State.resetWith c q n).rngDraws = n := rfl

/-! ### raise, raiseExec: only the latch changes (R231, R233) -/

/-- All that raising a fault can do: record it in a clear latch, or nothing. -/
theorem State.raise_cases (s : State) (code : FaultCode) (fpc fword : Word) :
    (s.fault.code = .noFault ∧ s.raise code fpc fword = { s with fault := ⟨code, fpc, fword⟩ }) ∨
    (s.fault.code ≠ .noFault ∧ s.raise code fpc fword = s) := by
  unfold State.raise
  split
  · exact .inl ⟨‹_›, rfl⟩
  · exact .inr ⟨‹_›, rfl⟩

theorem State.raise_of_safe {s : State} (h : s.fault.code = .noFault) (code : FaultCode) (fpc fword : Word) :
    s.raise code fpc fword = { s with fault := ⟨code, fpc, fword⟩ } := if_pos h

theorem State.raise_of_faulted {s : State} (h : s.fault.code ≠ .noFault) (code : FaultCode) (fpc fword : Word) :
    s.raise code fpc fword = s := if_neg h

@[simp] theorem State.raise_v (s : State) (c : FaultCode) (p w : Word) : (s.raise c p w).v = s.v := by
  unfold State.raise; split <;> rfl
@[simp] theorem State.raise_I (s : State) (c : FaultCode) (p w : Word) : (s.raise c p w).I = s.I := by
  unfold State.raise; split <;> rfl
@[simp] theorem State.raise_pc (s : State) (c : FaultCode) (p w : Word) : (s.raise c p w).pc = s.pc := by
  unfold State.raise; split <;> rfl
@[simp] theorem State.raise_sp (s : State) (c : FaultCode) (p w : Word) : (s.raise c p w).sp = s.sp := by
  unfold State.raise; split <;> rfl
@[simp] theorem State.raise_stack (s : State) (c : FaultCode) (p w : Word) : (s.raise c p w).stack = s.stack := by
  unfold State.raise; split <;> rfl
@[simp] theorem State.raise_dt (s : State) (c : FaultCode) (p w : Word) : (s.raise c p w).dt = s.dt := by
  unfold State.raise; split <;> rfl
@[simp] theorem State.raise_st (s : State) (c : FaultCode) (p w : Word) : (s.raise c p w).st = s.st := by
  unfold State.raise; split <;> rfl
@[simp] theorem State.raise_keys (s : State) (c : FaultCode) (p w : Word) : (s.raise c p w).keys = s.keys := by
  unfold State.raise; split <;> rfl
@[simp] theorem State.raise_fb (s : State) (c : FaultCode) (p w : Word) : (s.raise c p w).fb = s.fb := by
  unfold State.raise; split <;> rfl
@[simp] theorem State.raise_mem (s : State) (c : FaultCode) (p w : Word) : (s.raise c p w).mem = s.mem := by
  unfold State.raise; split <;> rfl
@[simp] theorem State.raise_cfg (s : State) (c : FaultCode) (p w : Word) : (s.raise c p w).cfg = s.cfg := by
  unfold State.raise; split <;> rfl
@[simp] theorem State.raise_rngQueue (s : State) (c : FaultCode) (p w : Word) : (s.raise c p w).rngQueue = s.rngQueue := by
  unfold State.raise; split <;> rfl
@[simp] theorem State.raise_rngDraws (s : State) (c : FaultCode) (p w : Word) : (s.raise c p w).rngDraws = s.rngDraws := by
  unfold State.raise; split <;> rfl
@[simp] theorem State.raiseExec_v (s : State) (c : FaultCode) (i : Instr) : (s.raiseExec c i).v = s.v :=
  State.raise_v ..
@[simp] theorem State.raiseExec_I (s : State) (c : FaultCode) (i : Instr) : (s.raiseExec c i).I = s.I :=
  State.raise_I ..
@[simp] theorem State.raiseExec_pc (s : State) (c : FaultCode) (i : Instr) : (s.raiseExec c i).pc = s.pc :=
  State.raise_pc ..
@[simp] theorem State.raiseExec_sp (s : State) (c : FaultCode) (i : Instr) : (s.raiseExec c i).sp = s.sp :=
  State.raise_sp ..
@[simp] theorem State.raiseExec_stack (s : State) (c : FaultCode) (i : Instr) : (s.raiseExec c i).stack = s.stack :=
  State.raise_stack ..
@[simp] theorem State.raiseExec_dt (s : State) (c : FaultCode) (i : Instr) : (s.raiseExec c i).dt = s.dt :=
  State.raise_dt ..
@[simp] theorem State.raiseExec_st (s : State) (c : FaultCode) (i : Instr) : (s.raiseExec c i).st = s.st :=
  State.raise_st ..
@[simp] theorem State.raiseExec_keys (s : State) (c : FaultCode) (i : Instr) : (s.raiseExec c i).keys = s.keys :=
  State.raise_keys ..
@[simp] theorem State.raiseExec_fb (s : State) (c : FaultCode) (i : Instr) : (s.raiseExec c i).fb = s.fb :=
  State.raise_fb ..
@[simp] theorem State.raiseExec_mem (s : State) (c : FaultCode) (i : Instr) : (s.raiseExec c i).mem = s.mem :=
  State.raise_mem ..
@[simp] theorem State.raiseExec_cfg (s : State) (c : FaultCode) (i : Instr) : (s.raiseExec c i).cfg = s.cfg :=
  State.raise_cfg ..
@[simp] theorem State.raiseExec_rngQueue (s : State) (c : FaultCode) (i : Instr) : (s.raiseExec c i).rngQueue = s.rngQueue :=
  State.raise_rngQueue ..
@[simp] theorem State.raiseExec_rngDraws (s : State) (c : FaultCode) (i : Instr) : (s.raiseExec c i).rngDraws = s.rngDraws :=
  State.raise_rngDraws ..

/-! ### writeRun: only memory changes; loadRegsFrom: only the registers change -/

/-- All that a run of byte writes can do to the state: memory becomes some memory. -/
theorem State.writeRun_eq (s : State) (addrs : List Addr) (bs : List Byte) :
    s.writeRun addrs bs = { s with mem := (s.writeRun addrs bs).mem } := by
  induction addrs generalizing s bs with
  | nil => cases bs <;> rfl
  | cons a addrs ih =>
    cases bs with
    | nil => rfl
    | cons b bs =>
      simp only [State.writeRun]
      rw [ih]
      rfl

/-- All that a run of register writes can do to the state: the registers become some registers. -/
theorem State.loadRegsFrom_eq (s : State) (i : Nat) (bs : List Byte) :
    s.loadRegsFrom i bs = { s with v := (s.loadRegsFrom i bs).v } := by
  induction bs generalizing s i with
  | nil => rfl
  | cons b bs ih =>
    simp only [State.loadRegsFrom]
    rw [ih]
    rfl

@[simp] theorem State.writeRun_v (s : State) (l : List Addr) (bs : List Byte) : (s.writeRun l bs).v = s.v := by
  rw [State.writeRun_eq]
@[simp] theorem State.writeRun_I (s : State) (l : List Addr) (bs : List Byte) : (s.writeRun l bs).I = s.I := by
  rw [State.writeRun_eq]
@[simp] theorem State.writeRun_pc (s : State) (l : List Addr) (bs : List Byte) : (s.writeRun l bs).pc = s.pc := by
  rw [State.writeRun_eq]
@[simp] theorem State.writeRun_sp (s : State) (l : List Addr) (bs : List Byte) : (s.writeRun l bs).sp = s.sp := by
  rw [State.writeRun_eq]
@[simp] theorem State.writeRun_stack (s : State) (l : List Addr) (bs : List Byte) : (s.writeRun l bs).stack = s.stack := by
  rw [State.writeRun_eq]
@[simp] theorem State.writeRun_dt (s : State) (l : List Addr) (bs : List Byte) : (s.writeRun l bs).dt = s.dt := by
  rw [State.writeRun_eq]
@[simp] theorem State.writeRun_st (s : State) (l : List Addr) (bs : List Byte) : (s.writeRun l bs).st = s.st := by
  rw [State.writeRun_eq]
@[simp] theorem State.writeRun_keys (s : State) (l : List Addr) (bs : List Byte) : (s.writeRun l bs).keys = s.keys := by
  rw [State.writeRun_eq]
@[simp] theorem State.writeRun_fb (s : State) (l : List Addr) (bs : List Byte) : (s.writeRun l bs).fb = s.fb := by
  rw [State.writeRun_eq]
@[simp] theorem State.writeRun_fault (s : State) (l : List Addr) (bs : List Byte) : (s.writeRun l bs).fault = s.fault := by
  rw [State.writeRun_eq]
@[simp] theorem State.writeRun_cfg (s : State) (l : List Addr) (bs : List Byte) : (s.writeRun l bs).cfg = s.cfg := by
  rw [State.writeRun_eq]
@[simp] theorem State.writeRun_rngQueue (s : State) (l : List Addr) (bs : List Byte) : (s.writeRun l bs).rngQueue = s.rngQueue := by
  rw [State.writeRun_eq]
@[simp] theorem State.writeRun_rngDraws (s : State) (l : List Addr) (bs : List Byte) : (s.writeRun l bs).rngDraws = s.rngDraws := by
  rw [State.writeRun_eq]
@[simp] theorem State.loadRegsFrom_I (s : State) (i : Nat) (bs : List Byte) : (s.loadRegsFrom i bs).I = s.I := by
  rw [State.loadRegsFrom_eq]
@[simp] theorem State.loadRegsFrom_pc (s : State) (i : Nat) (bs : List Byte) : (s.loadRegsFrom i bs).pc = s.pc := by
  rw [State.loadRegsFrom_eq]
@[simp] theorem State.loadRegsFrom_sp (s : State) (i : Nat) (bs : List Byte) : (s.loadRegsFrom i bs).sp = s.sp := by
  rw [State.loadRegsFrom_eq]
@[simp] theorem State.loadRegsFrom_stack (s : State) (i : Nat) (bs : List Byte) : (s.loadRegsFrom i bs).stack = s.stack := by
  rw [State.loadRegsFrom_eq]
@[simp] theorem State.loadRegsFrom_dt (s : State) (i : Nat) (bs : List Byte) : (s.loadRegsFrom i bs).dt = s.dt := by
  rw [State.loadRegsFrom_eq]
@[simp] theorem State.loadRegsFrom_st (s : State) (i : Nat) (bs : List Byte) : (s.loadRegsFrom i bs).st = s.st := by
  rw [State.loadRegsFrom_eq]
@[simp] theorem State.loadRegsFrom_keys (s : State) (i : Nat) (bs : List Byte) : (s.loadRegsFrom i bs).keys = s.keys := by
  rw [State.loadRegsFrom_eq]
@[simp] theorem State.loadRegsFrom_fb (s : State) (i : Nat) (bs : List Byte) : (s.loadRegsFrom i bs).fb = s.fb := by
  rw [State.loadRegsFrom_eq]
@[simp] theorem State.loadRegsFrom_mem (s : State) (i : Nat) (bs : List Byte) : (s.loadRegsFrom i bs).mem = s.mem := by
  rw [State.loadRegsFrom_eq]
@[simp] theorem State.loadRegsFrom_fault (s : State) (i : Nat) (bs : List Byte) : (s.loadRegsFrom i bs).fault = s.fault := by
  rw [State.loadRegsFrom_eq]
@[simp] theorem State.loadRegsFrom_cfg (s : State) (i : Nat) (bs : List Byte) : (s.loadRegsFrom i bs).cfg = s.cfg := by
  rw [State.loadRegsFrom_eq]
@[simp] theorem State.loadRegsFrom_rngQueue (s : State) (i : Nat) (bs : List Byte) : (s.loadRegsFrom i bs).rngQueue = s.rngQueue := by
  rw [State.loadRegsFrom_eq]
@[simp] theorem State.loadRegsFrom_rngDraws (s : State) (i : Nat) (bs : List Byte) : (s.loadRegsFrom i bs).rngDraws = s.rngDraws := by
  rw [State.loadRegsFrom_eq]

/-! ### skipIf, setResultAndFlag -/

/-- All that a skip can do (R120). -/
theorem State.skipIf_eq (s : State) (b : Bool) : s.skipIf b = { s with pc := if b then s.pc + 2 else s.pc } := by
  cases b <;> rfl

/-- All that an instruction with a flag does (R147): the registers change and nothing else. -/
theorem State.setResultAndFlag_eq (s : State) (r : Reg) (result flag : Byte) :
    s.setResultAndFlag r result flag = { s with v := (s.v.set r.val result).set 15 flag } := rfl

/-! ### Reading a register after writing one -/

@[simp] theorem State.getV_setV (s : State) (r r' : Reg) (b : Byte) :
    (s.setV r b).getV r' = if r' = r then b else s.getV r' := by
  simp only [State.getV, State.setV, Vector.getElem_set, Fin.ext_iff, eq_comm]

theorem State.getV_setResultAndFlag (s : State) (r r' : Reg) (result flag : Byte) :
    (s.setResultAndFlag r result flag).getV r' =
      if r' = Reg.vf then flag else if r' = r then result else s.getV r' := by
  simp only [State.setResultAndFlag, State.getV_setV]

end Sys2Proof.Machine
end

