-- ==== Sys2Proof/Laws/Display.lean ====
section
/-! SUPPORT. What the loops of a draw do, cell by cell (spec/44_display.md R192). -/

namespace Sys2Proof.Machine

/-- The cells of a toggled framebuffer: the toggled one is inverted, the others are as before. -/
theorem Framebuffer.cell_toggle (fb : Framebuffer) (c c' : Fin 64) (r r' : Fin 32) :
    (fb.toggle c r).cell c' r' = if c' = c ∧ r' = r then !fb.cell c r else fb.cell c' r' := by
  unfold Framebuffer.toggle Framebuffer.cell
  by_cases hr : r' = r
  · subst hr
    by_cases hc : c' = c
    · subst hc; simp
    · have : c.val ≠ c'.val := fun e => hc (Fin.ext e.symm)
      simp [hc, this]
  · have : r.val ≠ r'.val := fun e => hr (Fin.ext e.symm)
    simp [hr, this]

/-- Two framebuffers with the same cells are the same. -/
theorem Framebuffer.ext_cell {fb fb' : Framebuffer} (h : ∀ c r, fb.cell c r = fb'.cell c r) : fb = fb' := by
  apply Vector.ext
  intro r hr
  apply Vector.ext
  intro c hc
  exact h ⟨c, hc⟩ ⟨r, hr⟩

@[simp] theorem Framebuffer.cell_blank (c : Fin 64) (r : Fin 32) : Framebuffer.blank.cell c r = false := by
  simp [Framebuffer.blank, Framebuffer.cell]

/-- What drawing has done to a canvas so far: the cells in `hit` are inverted and the others are not, and the collision flag
says whether one of them was set, unless it was up before. -/
structure Canvas.Drawn (p q : Canvas) (hit : Fin 64 → Fin 32 → Prop) : Prop where
  toggled   : ∀ c r, hit c r → q.fb.cell c r = !p.fb.cell c r
  untouched : ∀ c r, ¬ hit c r → q.fb.cell c r = p.fb.cell c r
  collided  : q.collided = true ↔ p.collided = true ∨ ∃ c r, hit c r ∧ p.fb.cell c r = true

theorem Canvas.Drawn.congr {p q : Canvas} {hit hit' : Fin 64 → Fin 32 → Prop} (h : p.Drawn q hit)
    (e : ∀ c r, hit c r ↔ hit' c r) : p.Drawn q hit' := by
  have : hit = hit' := funext fun c => funext fun r => propext (e c r)
  exact this ▸ h

theorem Canvas.Drawn.refl (p : Canvas) : p.Drawn p (fun _ _ => False) :=
  ⟨fun _ _ h => h.elim, fun _ _ _ => rfl, by simp⟩

/-- Two draws after each other that touch no cell in common. -/
theorem Canvas.Drawn.trans {p q r : Canvas} {hit hit' : Fin 64 → Fin 32 → Prop} (h : p.Drawn q hit)
    (h' : q.Drawn r hit') (disjoint : ∀ c w, hit c w → ¬ hit' c w) :
    p.Drawn r (fun c w => hit c w ∨ hit' c w) where
  toggled c w hw := by
    rcases hw with hw | hw
    · rw [h'.untouched c w (disjoint c w hw), h.toggled c w hw]
    · rw [h'.toggled c w hw, h.untouched c w (fun e => disjoint c w e hw)]
  untouched c w hw := by
    rw [not_or] at hw
    rw [h'.untouched c w hw.2, h.untouched c w hw.1]
  collided := by
    rw [h'.collided, h.collided]
    constructor
    · rintro ((hp | ⟨c, w, hw, hs⟩) | ⟨c, w, hw, hs⟩)
      · exact .inl hp
      · exact .inr ⟨c, w, .inl hw, hs⟩
      · exact .inr ⟨c, w, .inr hw, by rwa [h.untouched c w (fun e => disjoint c w e hw)] at hs⟩
    · rintro (hp | ⟨c, w, hw | hw, hs⟩)
      · exact .inl (.inl hp)
      · exact .inl (.inr ⟨c, w, hw, hs⟩)
      · exact .inr ⟨c, w, hw, by rwa [h.untouched c w (fun e => disjoint c w e hw)]⟩

/-- The body of the inner loop inverts one cell, where the sprite's bit is set. -/
theorem Canvas.drawPixel_drawn (cx cy j : Nat) (b : Byte) (p : Canvas) (k : Nat) :
    p.Drawn (p.drawPixel cx cy j b k)
      (fun c r => spriteBit b k = true ∧ (cx + k) % 64 = c.val ∧ (cy + j) % 32 = r.val) := by
  unfold Canvas.drawPixel
  split
  · rename_i hb
    have key : ∀ (c : Fin 64) (r : Fin 32),
        (spriteBit b k = true ∧ (cx + k) % 64 = c.val ∧ (cy + j) % 32 = r.val) ↔
          (c = Fin.ofNat 64 (cx + k) ∧ r = Fin.ofNat 32 (cy + j)) := by
      intro c r
      simp [hb, Fin.ext_iff, Fin.ofNat, eq_comm]
    refine Canvas.Drawn.congr ?_ (fun c r => (key c r).symm)
    refine ⟨fun c r h => ?_, fun c r h => ?_, ?_⟩
    · simp only [Framebuffer.cell_toggle, h, and_self, if_true]
    · simp only [Framebuffer.cell_toggle, h, if_false]
    · simp only [Bool.or_eq_true]
      constructor
      · rintro (h | h)
        · exact .inl h
        · exact .inr ⟨_, _, ⟨rfl, rfl⟩, h⟩
      · rintro (h | ⟨c, r, ⟨rfl, rfl⟩, h⟩)
        · exact .inl h
        · exact .inr h
  · rename_i hb
    exact (Canvas.Drawn.refl p).congr (fun c r => by simp [hb])

/-- The inner loop over the first `m` columns. -/
theorem Canvas.drawColumns_drawn (cx cy j : Nat) (b : Byte) (p : Canvas) (m : Nat) (hm : m ≤ 8) :
    p.Drawn ((List.range m).foldl (Canvas.drawPixel cx cy j b) p)
      (fun c r => ∃ k, k < m ∧ spriteBit b k = true ∧ (cx + k) % 64 = c.val ∧ (cy + j) % 32 = r.val) := by
  induction m with
  | zero => exact (Canvas.Drawn.refl p).congr (fun c r => by simp)
  | succ m ih =>
    rw [List.range_succ, List.foldl_append, List.foldl_cons, List.foldl_nil]
    refine ((ih (by omega)).trans (Canvas.drawPixel_drawn cx cy j b _ m) ?_).congr (fun c r => ?_)
    · rintro c r ⟨k, hk, -, hc, -⟩ ⟨-, hc', -⟩
      omega
    · constructor
      · rintro (⟨k, hk, h⟩ | h)
        · exact ⟨k, by omega, h⟩
        · exact ⟨m, by omega, h⟩
      · rintro ⟨k, hk, h⟩
        rcases Nat.lt_succ_iff_lt_or_eq.mp hk with hk | rfl
        · exact .inl ⟨k, hk, h⟩
        · exact .inr h

/-- One row of a sprite. -/
theorem Canvas.drawRow_drawn (cx cy j : Nat) (b : Byte) (p : Canvas) :
    p.Drawn (p.drawRow cx cy j b)
      (fun c r => ∃ k, k < 8 ∧ spriteBit b k = true ∧ (cx + k) % 64 = c.val ∧ (cy + j) % 32 = r.val) :=
  Canvas.drawColumns_drawn cx cy j b p 8 (Nat.le_refl 8)

/-- The rows of a sprite of at most 32 rows, from row j on: no cell is toggled twice, so the cells the sprite covers are
inverted and no other. -/
theorem Canvas.drawRows_drawn (cx cy j : Nat) (bs : List Byte) (hl : bs.length ≤ 32) (p : Canvas) :
    p.Drawn (Canvas.drawRows cx cy j bs p)
      (fun c r => ∃ (i : Nat) (hi : i < bs.length) (k : Nat), k < 8 ∧ spriteBit bs[i] k = true ∧
        (cx + k) % 64 = c.val ∧ (cy + (j + i)) % 32 = r.val) := by
  induction bs generalizing j p with
  | nil => exact (Canvas.Drawn.refl p).congr (fun c r => by simp)
  | cons b bs ih =>
    simp only [List.length_cons] at hl
    rw [Canvas.drawRows]
    refine ((Canvas.drawRow_drawn cx cy j b p).trans (ih (j + 1) (by omega) _) ?_).congr (fun c r => ?_)
    · rintro c r ⟨k, -, -, -, hr⟩ ⟨i, hi, k', -, -, -, hr'⟩
      omega
    · constructor
      · rintro (⟨k, hk, hb, hc, hr⟩ | ⟨i, hi, k, hk, hb, hc, hr⟩)
        · exact ⟨0, by simp, k, hk, hb, hc, hr⟩
        · exact ⟨i + 1, by simpa using hi, k, hk, hb, hc, by rw [← hr]; congr 1; omega⟩
      · rintro ⟨i, hi, k, hk, hb, hc, hr⟩
        cases i with
        | zero => exact .inl ⟨k, hk, hb, hc, hr⟩
        | succ i =>
          exact .inr ⟨i, by simpa using hi, k, hk, hb, hc, by rw [← hr]; congr 1; omega⟩

end Sys2Proof.Machine
end

