-- ==== Sys2Proof/Laws/Memory.lean ====
section
/-! SUPPORT. The laws of memory: a read after a write, and the canonical form, which every memory operation keeps. -/

namespace Sys2Proof.Machine

namespace MemoryLaws

theorem lookup_insert_same (m : Memory) (a : Nat) (b : Byte) : (m.insert a b).lookup a = some b := by
  induction m with
  | nil => simp [Memory.insert, Memory.lookup]
  | cons kv m ih =>
    obtain ⟨k, v⟩ := kv
    unfold Memory.insert
    split
    · simp [Memory.lookup]
    · split
      · simp [Memory.lookup]
      · rw [Memory.lookup, if_neg (Ne.symm ‹_›), ih]

theorem lookup_insert_other (m : Memory) {a a' : Nat} (b : Byte) (h : a' ≠ a) :
    (m.insert a b).lookup a' = m.lookup a' := by
  induction m with
  | nil => simp [Memory.insert, Memory.lookup, h.symm]
  | cons kv m ih =>
    obtain ⟨k, v⟩ := kv
    unfold Memory.insert
    split
    · rw [Memory.lookup, if_neg (Ne.symm h)]
    · split
      · subst k
        simp [Memory.lookup, h.symm]
      · simp only [Memory.lookup, ih]

theorem lookup_erase_same (m : Memory) (a : Nat) : (m.erase a).lookup a = none := by
  induction m with
  | nil => rfl
  | cons kv m ih =>
    obtain ⟨k, v⟩ := kv
    by_cases h : k = a
    · simpa [Memory.erase, h] using ih
    · simpa [Memory.erase, h, Memory.lookup] using ih

theorem lookup_erase_other (m : Memory) {a a' : Nat} (h : a' ≠ a) : (m.erase a).lookup a' = m.lookup a' := by
  induction m with
  | nil => rfl
  | cons kv m ih =>
    obtain ⟨k, v⟩ := kv
    by_cases hk : k = a
    · subst k
      simpa [Memory.erase, Memory.lookup, h.symm] using ih
    · have : Memory.erase ((k, v) :: m) a = (k, v) :: Memory.erase m a := by simp [Memory.erase, hk]
      simp only [this, Memory.lookup, ih]

/-- A read after a write to the same address gives the byte written. -/
theorem read_write_same (c : Config) (m : Memory) (a : Nat) (b : Byte) : (m.write c a b).read c a = b := by
  unfold Memory.write Memory.read
  split
  · rw [lookup_erase_same, ‹b = _›]; rfl
  · rw [lookup_insert_same]; rfl

/-- A write leaves every other address alone. -/
theorem read_write_other (c : Config) (m : Memory) {a a' : Nat} (b : Byte) (h : a' ≠ a) :
    (m.write c a b).read c a' = m.read c a' := by
  unfold Memory.write Memory.read
  split
  · rw [lookup_erase_other m h]
  · rw [lookup_insert_other m b h]

theorem mem_insert {m : Memory} {a : Nat} {b : Byte} {cell : Host.Cell} (h : cell ∈ m.insert a b) :
    cell = (a, b) ∨ cell ∈ m := by
  induction m with
  | nil => simpa [Memory.insert] using h
  | cons kv m ih =>
    obtain ⟨k, v⟩ := kv
    unfold Memory.insert at h
    split at h
    · simpa using h
    · split at h
      · rcases List.mem_cons.mp h with h | h
        · exact .inl h
        · exact .inr (List.mem_cons_of_mem _ h)
      · rcases List.mem_cons.mp h with h | h
        · exact .inr (by simp [h])
        · exact (ih h).imp id (List.mem_cons_of_mem _)

theorem insert_sorted {m : Memory} {a : Nat} {b : Byte} (h : m.Pairwise (fun p q => p.1 < q.1)) :
    (m.insert a b).Pairwise (fun p q => p.1 < q.1) := by
  induction m with
  | nil => simp [Memory.insert]
  | cons kv m ih =>
    obtain ⟨k, v⟩ := kv
    obtain ⟨hk, hm⟩ := List.pairwise_cons.mp h
    unfold Memory.insert
    split
    · refine List.pairwise_cons.mpr ⟨fun q hq => ?_, h⟩
      rcases List.mem_cons.mp hq with rfl | hq
      · assumption
      · exact Nat.lt_trans ‹a < k› (hk q hq)
    · split
      · subst k
        exact List.pairwise_cons.mpr ⟨hk, hm⟩
      · refine List.pairwise_cons.mpr ⟨fun q hq => ?_, ih hm⟩
        rcases mem_insert hq with rfl | hq
        · show k < a
          omega
        · exact hk q hq

/-- The empty list is in canonical form: reset's memory. -/
theorem wf_nil (c : Config) : Memory.wf c [] := by simp [Memory.wf]

/-- A write at an address that exists keeps the canonical form. -/
theorem wf_write {c : Config} {m : Memory} {a : Nat} (b : Byte) (ha : a < 4096) (h : m.wf c) : (m.write c a b).wf c := by
  obtain ⟨hs, hc⟩ := h
  unfold Memory.write
  split
  · exact ⟨hs.sublist List.filter_sublist, fun cell hcell => hc cell (List.mem_of_mem_filter hcell)⟩
  · refine ⟨insert_sorted hs, fun cell hcell => ?_⟩
    rcases mem_insert hcell with rfl | hcell
    · exact ⟨ha, ‹_›⟩
    · exact hc cell hcell

end MemoryLaws

/-! ### The same, for a state -/

@[simp] theorem State.readByte_writeByte_same (s : State) (a : Addr) (b : Byte) : (s.writeByte a b).readByte a = b :=
  MemoryLaws.read_write_same ..

theorem State.readByte_writeByte_other (s : State) {a a' : Addr} (b : Byte) (h : a' ≠ a) :
    (s.writeByte a b).readByte a' = s.readByte a' :=
  MemoryLaws.read_write_other _ _ _ (fun e => h (Fin.ext e))

theorem State.wf_writeByte {s : State} (a : Addr) (b : Byte) (h : s.mem.wf s.cfg) :
    (s.writeByte a b).mem.wf (s.writeByte a b).cfg :=
  MemoryLaws.wf_write b a.isLt h

/-- What memory reads as depends on the memory and the parameters alone. -/
theorem State.readByte_congr {s t : State} (hm : t.mem = s.mem) (hc : t.cfg = s.cfg) (a : Addr) :
    t.readByte a = s.readByte a := by
  simp only [State.readByte, hm, hc]

/-- A run of writes keeps the canonical form. -/
theorem State.wf_writeRun {s : State} (addrs : List Addr) (bs : List Byte) (h : s.mem.wf s.cfg) :
    (s.writeRun addrs bs).mem.wf s.cfg := by
  induction addrs generalizing s bs with
  | nil => cases bs <;> exact h
  | cons a addrs ih =>
    cases bs with
    | nil => exact h
    | cons b bs => exact ih bs (State.wf_writeByte a b h)

/-- A run of writes leaves every address outside its list alone. -/
theorem State.readByte_writeRun_outside (s : State) (addrs : List Addr) (bs : List Byte) {a : Addr} (h : a ∉ addrs) :
    (s.writeRun addrs bs).readByte a = s.readByte a := by
  induction addrs generalizing s bs with
  | nil => cases bs <;> rfl
  | cons a' addrs ih =>
    cases bs with
    | nil => rfl
    | cons b bs =>
      rw [List.mem_cons, not_or] at h
      simp only [State.writeRun]
      rw [ih _ _ h.2, State.readByte_writeByte_other _ _ h.1]

/-- A run of writes to distinct addresses leaves each one's byte at its address. -/
theorem State.readRun_writeRun (s : State) {addrs : List Addr} {bs : List Byte} (hn : addrs.Nodup)
    (hl : bs.length = addrs.length) : (s.writeRun addrs bs).readRun addrs = bs := by
  induction addrs generalizing s bs with
  | nil => simpa [State.readRun] using (List.length_eq_zero_iff.mp hl).symm
  | cons a addrs ih =>
    obtain ⟨ha, hn⟩ := List.nodup_cons.mp hn
    cases bs with
    | nil => simp at hl
    | cons b bs =>
      have ih' := ih (s.writeByte a b) (bs := bs) hn (by simpa using hl)
      simp only [State.readRun, State.writeRun, List.map_cons] at ih' ⊢
      rw [ih', State.readByte_writeRun_outside _ _ _ ha, State.readByte_writeByte_same]

end Sys2Proof.Machine
end

