-- ==== Sys2Proof/Laws/Operands.lean ====
section
/-! SUPPORT. All that resolving the addresses of an instruction can answer (spec/20_memory.md R55). -/

namespace Sys2Proof.Machine

/-- Inside memory, the address is the exact sum. -/
theorem resolve_inside (c : Config) {I : Word} {j : Nat} (h : I.toNat + j ≤ 4095) :
    resolve c I j = some ⟨I.toNat + j, by omega⟩ := by
  rw [resolve, dif_pos h]

/-- Outside memory under OOB_POLICY = fault, there is no address. -/
theorem resolve_fault {c : Config} {I : Word} {j : Nat} (hc : c.oobPolicy = .fault) (h : 4095 < I.toNat + j) :
    resolve c I j = none := by
  rw [resolve, dif_neg (by omega), hc]

/-- Under OOB_POLICY = wrap, the address is the sum modulo 4096. -/
theorem resolve_wrap {c : Config} {I : Word} {j : Nat} (hc : c.oobPolicy = .wrap) :
    ∃ a, resolve c I j = some a ∧ a.val = (I.toNat + j) % 4096 := by
  unfold resolve
  split
  · exact ⟨_, rfl, by simp only; omega⟩
  · rw [hc]; exact ⟨_, rfl, rfl⟩

/-- An address that resolves is the sum modulo 4096, whatever the policy. -/
theorem resolve_val {c : Config} {I : Word} {j : Nat} {a : Addr} (h : resolve c I j = some a) :
    a.val = (I.toNat + j) % 4096 := by
  unfold resolve at h
  split at h
  · cases h; simp only; omega
  · split at h
    · cases h
    · cases h; rfl

/-- An offset has no address exactly when OOB_POLICY = fault and the sum is above 4095. -/
theorem resolve_eq_none_iff (c : Config) (I : Word) (j : Nat) :
    resolve c I j = none ↔ c.oobPolicy = .fault ∧ 4095 < I.toNat + j := by
  constructor
  · intro h
    cases hc : c.oobPolicy with
    | fault =>
      refine ⟨rfl, ?_⟩
      by_contra hj
      rw [resolve_inside c (by omega)] at h
      cases h
    | wrap =>
      obtain ⟨a, ha, -⟩ := resolve_wrap (I := I) (j := j) hc
      rw [ha] at h
      cases h
  · exact fun h => resolve_fault h.1 h.2

/-- The addresses of consecutive offsets, in order, when all of them resolve. -/
theorem resolveFrom_some {c : Config} {I : Word} {j n : Nat} {addrs : List Addr} (h : resolveFrom c I j n = some addrs) :
    addrs.length = n ∧ ∀ (k : Nat) (hk : k < addrs.length), resolve c I (j + k) = some addrs[k] := by
  induction n generalizing j addrs with
  | zero => cases h; exact ⟨rfl, fun k hk => absurd hk (Nat.not_lt_zero k)⟩
  | succ n ih =>
    rw [resolveFrom] at h
    split at h
    · cases h
    · split at h
      · cases h
      · rename_i a ha _ addrs' hr
        cases h
        obtain ⟨hl, hi⟩ := ih hr
        refine ⟨by simp [hl], fun k hk => ?_⟩
        cases k with
        | zero => exact ha
        | succ k =>
          have := hi k (by simpa using hk)
          simpa [Nat.add_assoc, Nat.add_comm 1 k] using this

/-- Consecutive offsets fail to resolve exactly when the last one does. -/
theorem resolveFrom_eq_none_iff (c : Config) (I : Word) (j n : Nat) :
    resolveFrom c I j n = none ↔ 0 < n ∧ c.oobPolicy = .fault ∧ 4095 < I.toNat + (j + n - 1) := by
  induction n generalizing j with
  | zero => simp [resolveFrom]
  | succ n ih =>
    cases hr : resolve c I j with
    | none =>
      obtain ⟨hc, hj⟩ := (resolve_eq_none_iff c I j).mp hr
      simp only [resolveFrom, hr, true_iff]
      exact ⟨Nat.succ_pos n, hc, by omega⟩
    | some a =>
      have hs : resolveFrom c I j (n + 1) = none ↔ resolveFrom c I (j + 1) n = none := by
        simp only [resolveFrom, hr]
        cases resolveFrom c I (j + 1) n <;> simp
      rw [hs, ih]
      have hnot : ¬ (c.oobPolicy = .fault ∧ 4095 < I.toNat + j) := by
        rw [← resolve_eq_none_iff, hr]; simp
      constructor
      · rintro ⟨hn, hc, hj⟩; exact ⟨by omega, hc, by omega⟩
      · rintro ⟨-, hc, hj⟩
        have : ¬ 4095 < I.toNat + j := fun h => hnot ⟨hc, h⟩
        exact ⟨by omega, hc, by omega⟩

/-- An instruction's addresses, when they resolve: one for each offset, each the sum modulo 4096 (R53, R55). -/
theorem State.indexed_some {s : State} {n : Nat} {addrs : List Addr} (h : s.indexed n = some addrs) :
    addrs.length = n ∧ ∀ (k : Nat) (hk : k < addrs.length), (addrs[k]).val = (s.I.toNat + k) % 4096 := by
  obtain ⟨hl, hi⟩ := resolveFrom_some h
  exact ⟨hl, fun k hk => by simpa using resolve_val (hi k hk)⟩

/-- An instruction's addresses fail to resolve exactly when it accesses at least one byte, OOB_POLICY is fault and the last
sum is above 4095 (R55). -/
theorem State.indexed_eq_none_iff (s : State) (n : Nat) :
    s.indexed n = none ↔ 0 < n ∧ s.cfg.oobPolicy = .fault ∧ 4095 < s.I.toNat + n - 1 := by
  rw [State.indexed, resolveFrom_eq_none_iff]
  simp only [Nat.zero_add]
  constructor <;> rintro ⟨h1, h2, h3⟩ <;> exact ⟨h1, h2, by omega⟩

/-- The addresses one instruction uses are pairwise distinct (R55). -/
theorem State.indexed_nodup {s : State} {n : Nat} (hn : n ≤ 4096) {addrs : List Addr} (h : s.indexed n = some addrs) :
    addrs.Nodup := by
  obtain ⟨hl, hi⟩ := State.indexed_some h
  rw [List.Nodup, List.pairwise_iff_getElem]
  intro p q hp hq hpq he
  have h1 := hi p hp
  have h2 := hi q hq
  rw [he, h2] at h1
  omega

/-- What the addresses depend on. -/
theorem State.indexed_congr {s t : State} (hc : t.cfg = s.cfg) (hI : t.I = s.I) (n : Nat) : t.indexed n = s.indexed n := by
  simp only [State.indexed, hc, hI]

end Sys2Proof.Machine
end

