-- ==== Sys2Proof/Laws/PerInstr.lean ====
section
/-! SUPPORT. Statements made per instruction. The family EncodesItsRow: the word of an instruction selects the row of the
opcode map that the instruction stands for (spec/30_encoding.md R76). -/

namespace Sys2Proof.Laws

open BitVec

theorem and_allOnes4 (g : BitVec 4) : g &&& 15#4 = g := BitVec.and_allOnes
theorem and_zeros (w : Nat) (b : BitVec w) : b &&& 0 = 0 := BitVec.and_zero
theorem and_allOnes8 (b : Byte) : b &&& 255#8 = b := BitVec.and_allOnes

/-! ### The three masks of R76, on the words of their formats -/

theorem formatA_and_F000 (g : BitVec 4) (nnn : BitVec 12) : formatA g nnn &&& 0xF000 = formatA g 0 := by
  rw [show (0xF000 : Word) = formatA 15#4 0 from rfl]
  unfold formatA
  rw [BitVec.and_append, and_allOnes4, and_zeros]

theorem formatXK_and_F000 (g : BitVec 4) (x : Reg) (nn : Byte) : formatXK g x nn &&& 0xF000 = formatXK g 0 0 := by
  rw [show (0xF000 : Word) = formatXK 15#4 0 0 from rfl]
  unfold formatXK
  rw [BitVec.and_append, BitVec.and_append, and_allOnes4, show nibble 0 = 0 from rfl, and_zeros, and_zeros]

theorem formatXYN_and_F000 (g : BitVec 4) (x y : Reg) (n : BitVec 4) :
    formatXYN g x y n &&& 0xF000 = formatXYN g 0 0 0 := by
  rw [show (0xF000 : Word) = formatXYN 15#4 0 0 0 from rfl]
  unfold formatXYN
  rw [BitVec.and_append, BitVec.and_append, BitVec.and_append, and_allOnes4, show nibble 0 = 0 from rfl,
    and_zeros, and_zeros, and_zeros]

theorem formatXYN_and_F00F (g : BitVec 4) (x y : Reg) (n : BitVec 4) :
    formatXYN g x y n &&& 0xF00F = formatXYN g 0 0 n := by
  rw [show (0xF00F : Word) = formatXYN 15#4 0 0 15#4 from rfl]
  unfold formatXYN
  rw [BitVec.and_append, BitVec.and_append, BitVec.and_append, and_allOnes4, show nibble 0 = 0 from rfl,
    and_zeros, and_zeros, and_allOnes4]

theorem formatXK_and_F0FF (g : BitVec 4) (x : Reg) (nn : Byte) :
    formatXK g x nn &&& 0xF0FF = formatXK g 0 nn := by
  rw [show (0xF0FF : Word) = formatXK 15#4 0 255#8 from rfl]
  unfold formatXK
  rw [BitVec.and_append, BitVec.and_append, and_allOnes4, show nibble 0 = 0 from rfl, and_zeros, and_allOnes8]

namespace EncodesItsRow

/-- The word of `i` selects a row of R76, and the row's mnemonic is that of `i`. -/
def Statement (i : Instr) : Prop := ∃ r ∈ opcodeTable, r.selects (encode i) = true ∧ r.mnemonic = i.mnemonic

/-- The row itself, with the membership and the mnemonic decided and the mask left to show. -/
theorem ofRow {i : Instr} (r : OpcodeRow) (hr : r ∈ opcodeTable) (hm : r.mnemonic = i.mnemonic)
    (hs : encode i &&& r.mask = r.pattern) : Statement i :=
  ⟨r, hr, by simp [OpcodeRow.selects, hs], hm⟩

theorem nop : Statement .nop :=
  ofRow ⟨"NOP", 0xFFFF, 0x0000⟩ (by decide) rfl rfl

theorem cls : Statement .cls :=
  ofRow ⟨"CLS", 0xFFFF, 0x00E0⟩ (by decide) rfl rfl

theorem ret : Statement .ret :=
  ofRow ⟨"RET", 0xFFFF, 0x00EE⟩ (by decide) rfl rfl

theorem jp (nnn : BitVec 12) : Statement (.jp nnn) :=
  ofRow ⟨"JP_nnn", 0xF000, 0x1000⟩ (by decide) rfl (formatA_and_F000 ..)

theorem call (nnn : BitVec 12) : Statement (.call nnn) :=
  ofRow ⟨"CALL_nnn", 0xF000, 0x2000⟩ (by decide) rfl (formatA_and_F000 ..)

theorem seImm (x : Reg) (nn : Byte) : Statement (.seImm x nn) :=
  ofRow ⟨"SE_Vx__nn", 0xF000, 0x3000⟩ (by decide) rfl (formatXK_and_F000 ..)

theorem sneImm (x : Reg) (nn : Byte) : Statement (.sneImm x nn) :=
  ofRow ⟨"SNE_Vx__nn", 0xF000, 0x4000⟩ (by decide) rfl (formatXK_and_F000 ..)

theorem seReg (x : Reg) (y : Reg) : Statement (.seReg x y) :=
  ofRow ⟨"SE_Vx__Vy", 0xF00F, 0x5000⟩ (by decide) rfl (formatXYN_and_F00F ..)

theorem ldImm (x : Reg) (nn : Byte) : Statement (.ldImm x nn) :=
  ofRow ⟨"LD_Vx__nn", 0xF000, 0x6000⟩ (by decide) rfl (formatXK_and_F000 ..)

theorem addImm (x : Reg) (nn : Byte) : Statement (.addImm x nn) :=
  ofRow ⟨"ADD_Vx__nn", 0xF000, 0x7000⟩ (by decide) rfl (formatXK_and_F000 ..)

theorem ldReg (x : Reg) (y : Reg) : Statement (.ldReg x y) :=
  ofRow ⟨"LD_Vx__Vy", 0xF00F, 0x8000⟩ (by decide) rfl (formatXYN_and_F00F ..)

theorem orReg (x : Reg) (y : Reg) : Statement (.orReg x y) :=
  ofRow ⟨"OR_Vx__Vy", 0xF00F, 0x8001⟩ (by decide) rfl (formatXYN_and_F00F ..)

theorem andReg (x : Reg) (y : Reg) : Statement (.andReg x y) :=
  ofRow ⟨"AND_Vx__Vy", 0xF00F, 0x8002⟩ (by decide) rfl (formatXYN_and_F00F ..)

theorem xorReg (x : Reg) (y : Reg) : Statement (.xorReg x y) :=
  ofRow ⟨"XOR_Vx__Vy", 0xF00F, 0x8003⟩ (by decide) rfl (formatXYN_and_F00F ..)

theorem addReg (x : Reg) (y : Reg) : Statement (.addReg x y) :=
  ofRow ⟨"ADD_Vx__Vy", 0xF00F, 0x8004⟩ (by decide) rfl (formatXYN_and_F00F ..)

theorem subReg (x : Reg) (y : Reg) : Statement (.subReg x y) :=
  ofRow ⟨"SUB_Vx__Vy", 0xF00F, 0x8005⟩ (by decide) rfl (formatXYN_and_F00F ..)

theorem shr (x : Reg) (y : Reg) : Statement (.shr x y) :=
  ofRow ⟨"SHR_Vx__Vy", 0xF00F, 0x8006⟩ (by decide) rfl (formatXYN_and_F00F ..)

theorem subn (x : Reg) (y : Reg) : Statement (.subn x y) :=
  ofRow ⟨"SUBN_Vx__Vy", 0xF00F, 0x8007⟩ (by decide) rfl (formatXYN_and_F00F ..)

theorem shl (x : Reg) (y : Reg) : Statement (.shl x y) :=
  ofRow ⟨"SHL_Vx__Vy", 0xF00F, 0x800E⟩ (by decide) rfl (formatXYN_and_F00F ..)

theorem sneReg (x : Reg) (y : Reg) : Statement (.sneReg x y) :=
  ofRow ⟨"SNE_Vx__Vy", 0xF00F, 0x9000⟩ (by decide) rfl (formatXYN_and_F00F ..)

theorem ldI (nnn : BitVec 12) : Statement (.ldI nnn) :=
  ofRow ⟨"LD_I__nnn", 0xF000, 0xA000⟩ (by decide) rfl (formatA_and_F000 ..)

theorem jpV0 (nnn : BitVec 12) : Statement (.jpV0 nnn) :=
  ofRow ⟨"JP_V0__nnn", 0xF000, 0xB000⟩ (by decide) rfl (formatA_and_F000 ..)

theorem rnd (x : Reg) (nn : Byte) : Statement (.rnd x nn) :=
  ofRow ⟨"RND_Vx__nn", 0xF000, 0xC000⟩ (by decide) rfl (formatXK_and_F000 ..)

theorem drw (x : Reg) (y : Reg) (n : Fin 16) : Statement (.drw x y n) :=
  ofRow ⟨"DRW_Vx__Vy__n", 0xF000, 0xD000⟩ (by decide) rfl (formatXYN_and_F000 ..)

theorem skp (x : Reg) : Statement (.skp x) :=
  ofRow ⟨"SKP_Vx", 0xF0FF, 0xE09E⟩ (by decide) rfl (formatXK_and_F0FF ..)

theorem sknp (x : Reg) : Statement (.sknp x) :=
  ofRow ⟨"SKNP_Vx", 0xF0FF, 0xE0A1⟩ (by decide) rfl (formatXK_and_F0FF ..)

theorem ldFromDT (x : Reg) : Statement (.ldFromDT x) :=
  ofRow ⟨"LD_Vx__DT", 0xF0FF, 0xF007⟩ (by decide) rfl (formatXK_and_F0FF ..)

theorem ldToDT (x : Reg) : Statement (.ldToDT x) :=
  ofRow ⟨"LD_DT__Vx", 0xF0FF, 0xF015⟩ (by decide) rfl (formatXK_and_F0FF ..)

theorem ldToST (x : Reg) : Statement (.ldToST x) :=
  ofRow ⟨"LD_ST__Vx", 0xF0FF, 0xF018⟩ (by decide) rfl (formatXK_and_F0FF ..)

theorem addI (x : Reg) : Statement (.addI x) :=
  ofRow ⟨"ADD_I__Vx", 0xF0FF, 0xF01E⟩ (by decide) rfl (formatXK_and_F0FF ..)

theorem waitKey (x : Reg) : Statement (.waitKey x) :=
  ofRow ⟨"LD_Vx__K", 0xF0FF, 0xF00A⟩ (by decide) rfl (formatXK_and_F0FF ..)

theorem ldGlyph (x : Reg) : Statement (.ldGlyph x) :=
  ofRow ⟨"LD_F__Vx", 0xF0FF, 0xF029⟩ (by decide) rfl (formatXK_and_F0FF ..)

theorem storeBcd (x : Reg) : Statement (.storeBcd x) :=
  ofRow ⟨"LD_B__Vx", 0xF0FF, 0xF033⟩ (by decide) rfl (formatXK_and_F0FF ..)

theorem storeRegs (x : Reg) : Statement (.storeRegs x) :=
  ofRow ⟨"LD__I___Vx", 0xF0FF, 0xF055⟩ (by decide) rfl (formatXK_and_F0FF ..)

theorem loadRegs (x : Reg) : Statement (.loadRegs x) :=
  ofRow ⟨"LD_Vx___I", 0xF0FF, 0xF065⟩ (by decide) rfl (formatXK_and_F0FF ..)

end EncodesItsRow

end Sys2Proof.Laws
end

