-- ==== Sys2Proof/Laws/Step.lean ====
section
/-! SUPPORT. All that a step can do, said once (spec/30_encoding.md R71, spec/60_exceptions.md R234), and the fetch. -/

namespace Sys2Proof.Machine

/-- The four ways a step can go: halted, a fetch fault, an unimplemented word, or the execution of the decoded instruction
with pc advanced. -/
theorem step_cases (s : State) :
    (s.fault.code ≠ .noFault ∧ step s = .next s) ∨
    (s.fault.code = .noFault ∧ s.fetchWord = none ∧
      step s = .next { s with fault := ⟨.fetchOutOfBounds, s.pc, 0⟩ }) ∨
    (∃ w e, s.fault.code = .noFault ∧ s.fetchWord = some w ∧ decode w = .error e ∧
      step s = .next { s with pc := s.pc + 2, fault := ⟨.unimplementedOpcode, s.pc, w⟩ }) ∨
    (∃ w i, s.fault.code = .noFault ∧ s.fetchWord = some w ∧ decode w = .ok i ∧
      step s = exec i { s with pc := s.pc + 2 }) := by
  by_cases h : s.fault.code = .noFault
  · have hh : s.halted = false := by simp [State.halted, h]
    cases hf : s.fetchWord with
    | none =>
      refine .inr (.inl ⟨h, rfl, ?_⟩)
      simp only [step, State.stepCycle, hh, hf, Bool.false_eq_true, if_false]
      rw [State.raise_of_safe h]
    | some w =>
      have hs : step s = s.advancePc.runWord w := by
        simp only [step, State.stepCycle, hh, hf, Bool.false_eq_true, if_false]
      cases hd : decode w with
      | ok i => exact .inr (.inr (.inr ⟨w, i, h, rfl, hd, by rw [hs, State.runWord, hd]; rfl⟩))
      | error e =>
        refine .inr (.inr (.inl ⟨w, e, h, rfl, hd, ?_⟩))
        rw [hs, State.runWord, hd]
        simp only
        rw [State.raise_of_safe (by simpa using h)]
        simp only [State.advancePc, State.setPc, BitVec.add_sub_cancel]
  · refine .inl ⟨h, ?_⟩
    simp [step, State.stepCycle, State.halted, h]

/-- A halted step changes nothing (R232). -/
theorem step_of_faulted {s : State} (h : s.fault.code ≠ .noFault) : step s = .next s := by
  simp [step, State.stepCycle, State.halted, h]

/-- The fetch reads the two bytes at pc, high byte first (R51). -/
theorem State.fetchWord_eq (s : State) {a b : Addr} (ha : a.val = s.pc.toNat) (hb : b.val = s.pc.toNat + 1) :
    s.fetchWord = some (wordOfBytes (s.readByte a) (s.readByte b)) := by
  have hb' := b.isLt
  have h : s.pc.toNat + 1 ≤ 4095 := by omega
  simp only [State.fetchWord, h, dif_pos]
  congr 3
  · exact Fin.ext ha.symm
  · exact Fin.ext hb.symm

/-- There is no fetch exactly when pc + 1 is outside memory (R51). -/
theorem State.fetchWord_eq_none_iff (s : State) : s.fetchWord = none ↔ s.pc.toNat + 1 > 4095 := by
  unfold State.fetchWord
  split
  · simp; omega
  · simp; omega

/-- What the fetch depends on. -/
theorem State.fetchWord_congr {s t : State} (hm : t.mem = s.mem) (hc : t.cfg = s.cfg) (hp : t.pc = s.pc) :
    t.fetchWord = s.fetchWord := by
  simp only [State.fetchWord, State.readByte, hm, hc, hp]

/-- A fetch sees the word that has been placed at pc (R51, R63). -/
theorem State.fetchWord_placeWord (s : State) (w : Word) (h : s.pc.toNat + 1 ≤ 4095) :
    (s.placeWord w).fetchWord = some w := by
  have hpc : (s.placeWord w).pc = s.pc := by simp [State.placeWord, h]
  rw [State.fetchWord_eq (s.placeWord w) (a := ⟨s.pc.toNat, by omega⟩) (b := ⟨s.pc.toNat + 1, by omega⟩)
    (by rw [hpc]) (by rw [hpc])]
  simp only [State.placeWord, h, dif_pos]
  rw [State.readByte_writeByte_same, State.readByte_writeByte_other _ _ (by simp [Fin.ext_iff]),
    State.readByte_writeByte_same, wordOfBytes_high_low]

/-- After `readyToFetch`, the next STEP fetches. -/
theorem State.readyToFetch_ready (s : State) :
    s.readyToFetch.fault.code = .noFault ∧ s.readyToFetch.pc.toNat + 1 ≤ 4095 := by
  unfold State.readyToFetch
  by_cases h : s.fault.code = .noFault <;> by_cases hp : s.pc.toNat + 1 ≤ 4095 <;>
    simp [h, hp, FaultLatch.clear]

end Sys2Proof.Machine
end

