-- ==== Sys2Proof/Laws/Safety.lean ====
section
/-! SUPPORT. The terms of Safety.lean in the terms of the machine: words and formats, accesses in bounds, faults and
coordinates. -/

namespace Sys2Proof.Machine

/-! ### The words of a row are the words of its format (spec/30_encoding.md R72, R73) -/

theorem wordA_eq (g : BitVec 4) (nnn : BitVec 12) : wordA (4096 * g.toNat) nnn = formatA g nnn := by
  apply BitVec.eq_of_toNat_eq
  rw [formatA_toNat]
  simp only [wordA, BitVec.toNat_ofNat]
  omega

theorem wordXK_eq (g : BitVec 4) (x : Reg) (nn : Byte) : wordXK (4096 * g.toNat) x nn = formatXK g x nn := by
  apply BitVec.eq_of_toNat_eq
  rw [formatXK_toNat]
  simp only [wordXK, BitVec.toNat_ofNat]
  omega

theorem wordXY_eq (g n : BitVec 4) (x y : Reg) : wordXY (4096 * g.toNat + n.toNat) x y = formatXYN g x y n := by
  apply BitVec.eq_of_toNat_eq
  rw [formatXYN_toNat]
  simp only [wordXY, BitVec.toNat_ofNat]
  omega

theorem wordX_eq (g : BitVec 4) (nn : Byte) (x : Reg) : wordX (4096 * g.toNat + nn.toNat) x = formatXK g x nn := by
  apply BitVec.eq_of_toNat_eq
  rw [formatXK_toNat]
  simp only [wordX, BitVec.toNat_ofNat]
  omega

/-! ### Accesses from I (spec/20_memory.md R55) -/

/-- An access of at least one byte resolves exactly when it is accessible. -/
theorem State.accessible_iff (s : State) (n : Nat) : s.Accessible (n + 1) ↔ s.indexed (n + 1) ≠ none := by
  rw [Ne, State.indexed_eq_none_iff]
  unfold State.Accessible
  cases s.cfg.oobPolicy
  · simp; omega
  · simp

/-- An accessible access, or one of no byte, resolves to the addresses (I + j) mod 4096. -/
theorem State.indexed_of_accessible {s : State} {n : Nat} (h : n = 0 ∨ s.Accessible n) :
    s.indexed n = some ((List.range n).map s.indexedAddr) := by
  cases n with
  | zero => rfl
  | succ n =>
    obtain ⟨l, hl⟩ := Option.ne_none_iff_exists'.mp ((s.accessible_iff n).mp (h.resolve_left (by omega)))
    rw [hl]
    obtain ⟨hlen, hget⟩ := State.indexed_some hl
    congr 1
    apply List.ext_getElem
    · simp [hlen]
    · intro k hk hk'
      apply Fin.ext
      rw [hget k hk]
      simp [State.indexedAddr]

/-- An access of at least one byte that is not accessible does not resolve. -/
theorem State.indexed_of_not_accessible {s : State} {n : Nat} (h : ¬ s.Accessible (n + 1)) : s.indexed (n + 1) = none :=
  Decidable.byContradiction fun h' => h ((s.accessible_iff n).mpr h')

/-- The addresses of one instruction are pairwise distinct (R55). -/
theorem State.indexedAddr_inj (s : State) {i j : Nat} (hi : i < 4096) (hj : j < 4096)
    (h : s.indexedAddr i = s.indexedAddr j) : i = j := by
  have := congrArg Fin.val h
  simp only [State.indexedAddr] at this
  omega

/-! ### Faults and coordinates -/

/-- Raising a fault with no fault latched gives the faulted state (spec/60_exceptions.md R231, R233). -/
theorem State.raiseExec_of_safe {s : State} (h : s.fault.code = .noFault) (code : FaultCode) (i : Instr) :
    s.raiseExec code i = s.faultedBy code (encode i) := State.raise_of_safe h _ _ _

/-- The coordinate Dxyn reads (spec/44_display.md R192). -/
theorem State.coordState_getV (s : State) (x : Reg) : (s.coordState.getV x).toNat = s.coordinate x := by
  unfold State.coordState State.coordinate
  cases s.cfg.drawCoordRead
  · simp only [State.getV_setV, and_true]
    split <;> rfl
  · simp

/-! ### Every instruction and every step has a next state -/

theorem exec_next (i : Instr) (s : State) : ∃ t, exec i s = .next t := by
  cases i <;> simp only [exec, execNop, execCls, execRet, execJp, execCall, execSeImm, execSneImm, execSeReg, execLdImm,
    execAddImm, execLdReg, execOrReg, execAndReg, execXorReg, execAddReg, execSubReg, execShr, execSubn, execShl, execSneReg,
    execLdI, execJpV0, execRnd, execDrw, execSkp, execSknp, execLdFromDT, execLdToDT, execLdToST, execAddI, execWaitKey,
    execLdGlyph, execStoreBcd, execStoreRegs, execLoadRegs] <;> (repeat' split) <;> exact ⟨_, rfl⟩

theorem step_next (s : State) : ∃ t, step s = .next t := by
  rcases step_cases s with ⟨_, h⟩ | ⟨_, _, h⟩ | ⟨_, _, _, _, _, h⟩ | ⟨_, i, _, _, _, h⟩ <;> rw [h]
  · exact ⟨_, rfl⟩
  · exact ⟨_, rfl⟩
  · exact ⟨_, rfl⟩
  · exact exec_next i _

/-! ### The call stack: all that a pop and a push can do (spec/10_state.md R26) -/

theorem State.pop_some {s s' : State} {w : Word} (h : s.pop = some (w, s')) :
    0 < s.sp.val ∧ s' = { s with sp := s'.sp } ∧ s'.sp.val = s.sp.val - 1 ∧ w = s.stack[s.sp.val - 1] := by
  unfold State.pop at h
  split at h
  · cases h
    exact ⟨‹_›, rfl, rfl, rfl⟩
  · cases h

theorem State.pop_eq_none_iff (s : State) : s.pop = none ↔ s.sp.val = 0 := by
  unfold State.pop
  split
  · simp; omega
  · simp; omega

theorem State.push_some {s s' : State} {w : Word} (h : s.push w = some s') :
    s.sp.val < 16 ∧ s' = { s with sp := s'.sp, stack := s'.stack } ∧ s'.sp.val = s.sp.val + 1 ∧
      ∀ k : Fin 16, s'.stack[k.val] = if k.val = s.sp.val then w else s.stack[k.val] := by
  unfold State.push at h
  split at h
  · cases h
    refine ⟨‹_›, rfl, rfl, fun k => ?_⟩
    simp only [Vector.getElem_set, eq_comm]
  · cases h

theorem State.push_eq_none_iff (s : State) (w : Word) : s.push w = none ↔ s.sp.val = 16 := by
  unfold State.push
  split
  · simp; omega
  · simp; omega

end Sys2Proof.Machine
end

