-- ==== Sys2Proof/Machine/Assembly.lean ====
section
/-! DEFINITION. The assembler notation of spec/30_encoding.md R85: how an instruction, a raw word and a raw byte are
written. The machine does not use it. Operands stand in field order: the first register is field x, the second field y.
Mind R85's warning: `SUBN Vx, Vy` writes Vy (`execSubn`), and `SHR` and `SHL` shift Vx and ignore Vy (`execShr`,
`execShl`). -/

namespace Sys2Proof

/-- A hexadecimal digit. -/
def hexDigit (n : Fin 16) : Char :=
  match n.val with
  | 10 => 'A' | 11 => 'B' | 12 => 'C' | 13 => 'D' | 14 => 'E' | 15 => 'F'
  | k => Char.ofNat (48 + k)

/-- The last `k` hexadecimal digits of a number, most significant first. -/
def hexDigits : Nat → Nat → List Char
  | 0, _ => []
  | k + 1, n => hexDigits k (n / 16) ++ [hexDigit (Fin.ofNat 16 n)]

/-- An immediate of `k` digits: hexadecimal with the prefix 0x (R85). -/
def hexText (k n : Nat) : String := "0x" ++ String.ofList (hexDigits k n)

/-- V0 to VF (R85). -/
def regText (r : Reg) : String := "V" ++ String.ofList [hexDigit r]

/-- The row count of Dxyn, a decimal number as spec/95_test_vectors.md P3 writes it (log entry 16). -/
def rowsText (n : Fin 16) : String :=
  if n.val < 10 then String.ofList [hexDigit n] else String.ofList ['1', hexDigit (Fin.ofNat 16 (n.val - 10))]

/-- A mnemonic with one operand. -/
def asm1 (name a : String) : String := name ++ " " ++ a

/-- A mnemonic with two operands. -/
def asm2 (name a b : String) : String := name ++ " " ++ a ++ ", " ++ b

/-- A mnemonic with three operands. -/
def asm3 (name a b c : String) : String := asm2 name a b ++ ", " ++ c

/-- The notation of an instruction (the table of R85). -/
def Instr.assembly : Instr → String
  | .nop => "NOP"
  | .cls => "CLS"
  | .ret => "RET"
  | .jp nnn => asm1 "JP" (hexText 3 nnn.toNat)
  | .call nnn => asm1 "CALL" (hexText 3 nnn.toNat)
  | .seImm x nn => asm2 "SE" (regText x) (hexText 2 nn.toNat)
  | .sneImm x nn => asm2 "SNE" (regText x) (hexText 2 nn.toNat)
  | .seReg x y => asm2 "SE" (regText x) (regText y)
  | .ldImm x nn => asm2 "LD" (regText x) (hexText 2 nn.toNat)
  | .addImm x nn => asm2 "ADD" (regText x) (hexText 2 nn.toNat)
  | .ldReg x y => asm2 "LD" (regText x) (regText y)
  | .orReg x y => asm2 "OR" (regText x) (regText y)
  | .andReg x y => asm2 "AND" (regText x) (regText y)
  | .xorReg x y => asm2 "XOR" (regText x) (regText y)
  | .addReg x y => asm2 "ADD" (regText x) (regText y)
  | .subReg x y => asm2 "SUB" (regText x) (regText y)
  | .shr x y => asm2 "SHR" (regText x) (regText y)
  | .subn x y => asm2 "SUBN" (regText x) (regText y)
  | .shl x y => asm2 "SHL" (regText x) (regText y)
  | .sneReg x y => asm2 "SNE" (regText x) (regText y)
  | .ldI nnn => asm2 "LD" "I" (hexText 3 nnn.toNat)
  | .jpV0 nnn => asm2 "JP" "V0" (hexText 3 nnn.toNat)
  | .rnd x nn => asm2 "RND" (regText x) (hexText 2 nn.toNat)
  | .drw x y n => asm3 "DRW" (regText x) (regText y) (rowsText n)
  | .skp x => asm1 "SKP" (regText x)
  | .sknp x => asm1 "SKNP" (regText x)
  | .ldFromDT x => asm2 "LD" (regText x) "DT"
  | .ldToDT x => asm2 "LD" "DT" (regText x)
  | .ldToST x => asm2 "LD" "ST" (regText x)
  | .addI x => asm2 "ADD" "I" (regText x)
  | .waitKey x => asm2 "LD" (regText x) "K"
  | .ldGlyph x => asm2 "LD" "F" (regText x)
  | .storeBcd x => asm2 "LD" "B" (regText x)
  | .storeRegs x => asm2 "LD" "[I]" (regText x)
  | .loadRegs x => asm2 "LD" (regText x) "[I]"

/-- A raw byte (R85). -/
def assemblyOfByte (b : Byte) : String := asm1 "DB" (hexText 2 b.toNat)

/-- A word: the notation of its instruction, or a raw word where it is none (R85). -/
def assemblyOfWord (w : Word) : String :=
  match decode w with
  | .ok i    => i.assembly
  | .error _ => asm1 "DW" (hexText 4 w.toNat)

end Sys2Proof
end

