-- ==== Sys2Proof/Tests/Slice0.lean ====
section
/-! SUPPORT. Tests of the model's own author. Expected results are the spec's: the vectors T<n> and H<n> of
spec/95_test_vectors.md, the words of spec/30_encoding.md R76, R78 and R80, or a hand calculation from a rule. The witnesses
at the end show, for each obligation with hypotheses, a state and operands that meet them. -/

namespace Sys2Proof.Tests

set_option Elab.async false

open Sys2Proof Sys2Proof.Machine Host

/-! ### What a word must be (R76, R80): ill-formed words are refused -/

theorem test_wf_refuses_group0 : wordWellFormed 0x0123 = false ∧ wordWellFormed 0x00E1 = false := by decide
theorem test_wf_refuses_group5 : wordWellFormed 0x5121 = false := by decide
theorem test_wf_refuses_group8 : wordWellFormed 0x8128 = false ∧ wordWellFormed 0x812F = false := by decide
theorem test_wf_refuses_group9 : wordWellFormed 0x9121 = false := by decide
theorem test_wf_refuses_groupE : wordWellFormed 0xE09F = false ∧ wordWellFormed 0xE000 = false := by decide
theorem test_wf_refuses_groupF : wordWellFormed 0xF0FF = false ∧ wordWellFormed 0xF075 = false := by decide
theorem test_wf_accepts : wordWellFormed 0x0000 = true ∧ wordWellFormed 0xDFFF = true ∧ wordWellFormed 0xF165 = true := by
  decide
theorem test_table_has_35_rows : opcodeTable.length = 35 := by decide

/-! ### Decoding (R72, R76): a word written out for every constructor -/

theorem test_decode_fixed : decode 0x0000 = .ok .nop ∧ decode 0x00E0 = .ok .cls ∧ decode 0x00EE = .ok .ret := by decide
theorem test_decode_jumps : decode 0x1ABC = .ok (.jp 0xABC) ∧ decode 0x2300 = .ok (.call 0x300) ∧
    decode 0xBFFF = .ok (.jpV0 0xFFF) ∧ decode 0xA2F0 = .ok (.ldI 0x2F0) := by decide
theorem test_decode_skips : decode 0x3342 = .ok (.seImm 3 0x42) ∧ decode 0x4A01 = .ok (.sneImm 10 0x01) ∧
    decode 0x5120 = .ok (.seReg 1 2) ∧ decode 0x9120 = .ok (.sneReg 1 2) ∧ decode 0xE59E = .ok (.skp 5) ∧
    decode 0xE5A1 = .ok (.sknp 5) := by decide
theorem test_decode_byte_forms : decode 0x6A2F = .ok (.ldImm 10 0x2F) ∧ decode 0x71FF = .ok (.addImm 1 0xFF) ∧
    decode 0xC30F = .ok (.rnd 3 0x0F) := by decide
theorem test_decode_group8 : decode 0x8120 = .ok (.ldReg 1 2) ∧ decode 0x8121 = .ok (.orReg 1 2) ∧
    decode 0x8122 = .ok (.andReg 1 2) ∧ decode 0x8123 = .ok (.xorReg 1 2) ∧ decode 0x8124 = .ok (.addReg 1 2) ∧
    decode 0x8125 = .ok (.subReg 1 2) ∧ decode 0x8126 = .ok (.shr 1 2) ∧ decode 0x8127 = .ok (.subn 1 2) ∧
    decode 0x812E = .ok (.shl 1 2) := by decide
theorem test_decode_draw : decode 0xD12F = .ok (.drw 1 2 15) ∧ decode 0xDF10 = .ok (.drw 15 1 0) := by decide
theorem test_decode_groupF : decode 0xF307 = .ok (.ldFromDT 3) ∧ decode 0xF50A = .ok (.waitKey 5) ∧
    decode 0xF315 = .ok (.ldToDT 3) ∧ decode 0xF418 = .ok (.ldToST 4) ∧ decode 0xF21E = .ok (.addI 2) ∧
    decode 0xFA29 = .ok (.ldGlyph 10) ∧ decode 0xF033 = .ok (.storeBcd 0) ∧ decode 0xF255 = .ok (.storeRegs 2) ∧
    decode 0xFF65 = .ok (.loadRegs 15) := by decide
theorem test_decode_refuses : decode 0x0123 = .error (.unimplementedOpcode 0x0123) ∧
    decode 0x8128 = .error (.unimplementedOpcode 0x8128) ∧ decode 0xF0FF = .error (.unimplementedOpcode 0xF0FF) := by decide
theorem test_decode_bytes : decodeBytes [0xA2, 0xF0, 0x12] = .ok (.ldI 0x2F0, [0x12]) ∧
    decodeBytes [0xA2] = .error .truncated := by decide
theorem test_fields : fieldG 0xD12F = 0xD ∧ fieldX 0xD12F = 1 ∧ fieldY 0xD12F = 2 ∧ fieldN 0xD12F = 15 ∧
    fieldNN 0xD12F = 0x2F ∧ fieldNNN 0xD12F = 0x12F := by decide   -- E11
theorem test_encode : encode (.drw 1 2 15) = 0xD12F ∧ encode (.subn 1 2) = 0x8127 ∧ encodeBytes (.ldI 0x2F0) = [0xA2, 0xF0] := by
  decide
theorem test_decode_table_word : decodeTableWord 16 0xF265 = some (.loadRegs 2) ∧ decodeTableWord 16 0x5121 = none := by decide

/-- The notation of R85, on words that programs P1 to P7 of spec/95_test_vectors.md list beside it. -/
theorem test_assembly : [0x120C, 0x80F0, 0xD015, 0xA208, 0xF155, 0xF265, 0xF30A, 0x3100].map assemblyOfWord =
    ["JP 0x20C", "LD V0, VF", "DRW V0, V1, 5", "LD I, 0x208", "LD [I], V1", "LD V2, [I]", "LD V3, K", "SE V1, 0x00"] := by
  decide +kernel
theorem test_assembly_raw : assemblyOfWord 0x5121 = "DW 0x5121" ∧ assemblyOfByte 0x0F = "DB 0x0F" ∧
    (Instr.drw 0 1 15).assembly = "DRW V0, V1, 15" := by decide +kernel

/-! ### One step on a small state -/

/-- The reset state, changed as a vector says, with a word where the next step fetches. -/
def start (w : Word) (pc : Word := 0x200) (change : State → State := id) : State :=
  (change { State.reset with pc := pc }).placeWord w

/-- The state after one step. -/
def after (s : State) : State := match step s with | .next t => t | _ => s

/-- Write some registers. -/
def regs (l : List (Reg × Byte)) (s : State) : State := l.foldl (fun s p => s.setV p.1 p.2) s

/-- Write some bytes. -/
def bytes (l : List (Addr × Byte)) (s : State) : State := l.foldl (fun s p => s.writeByte p.1 p.2) s

/-- Light some cells. -/
def light (l : List (Fin 64 × Fin 32)) (s : State) : State :=
  { s with fb := l.foldl (fun fb p => fb.toggle p.1 p.2) s.fb }

/-- Press some keys. -/
def press (l : List (Fin 16)) (s : State) : State := l.foldl (fun s k => s.setKeyFlag k true) s

/-- The same machine with OOB_POLICY = wrap. -/
def wrapping (s : State) : State := { s with cfg := { s.cfg with oobPolicy := .wrap } }

/-- The indices of the cells that are lit, column + 64·row. -/
def lit (s : State) : List Nat := ((List.range 2048).zip s.fb.cells).filterMap (fun p => if p.2 then some p.1 else none)

/-- The latch as (code, fpc, fword). -/
def latch (s : State) : Nat × Word × Word := (s.fault.code.toNat, s.fault.fpc, s.fault.fword)

theorem test_T1_nop : after (start 0x0000) = { start 0x0000 with pc := 0x202 } := by decide +kernel
theorem test_T2_ret : let s := start 0x00EE (change := fun s => { s with sp := 1, stack := s.stack.set 0 0x204 })
    (after s).pc = 0x204 ∧ (after s).sp = 0 := by decide +kernel
theorem test_T3_ret_empty : (after (start 0x00EE)).pc = 0x202 ∧ latch (after (start 0x00EE)) = (3, 0x200, 0x00EE) := by
  decide +kernel
theorem test_T5_jp_odd : (after (start 0x1201)).pc = 0x201 := by decide +kernel
theorem test_T8_call : let t := after (start 0x2300 0xFFE)
    t.pc = 0x300 ∧ t.sp = 1 ∧ t.stack[0] = 0x1000 := by decide +kernel
theorem test_T7_call_full : let s := start 0x2300 (change := fun s => { s with sp := 16 })
    (after s).pc = 0x202 ∧ (after s).sp = 16 ∧ latch (after s) = (2, 0x200, 0x2300) := by decide +kernel
theorem test_T10_jpV0 : (after (start 0xBFFF (change := regs [(0, 0xFF)]))).pc = 0x10FE := by decide +kernel
theorem test_T12_fetch_past_end : let s := { State.reset with pc := 0xFFF }
    after s = { s with fault := ⟨.fetchOutOfBounds, 0xFFF, 0⟩ } := by decide +kernel
theorem test_T13_unimplemented : (after (start 0x0123)).pc = 0x202 ∧ latch (after (start 0x0123)) = (1, 0x200, 0x0123) := by
  decide +kernel

theorem test_T20_T21_seImm : (after (start 0x3342 (change := regs [(3, 0x42)]))).pc = 0x204 ∧
    (after (start 0x3342 (change := regs [(3, 0x41)]))).pc = 0x202 := by decide +kernel
theorem test_T22_T23_sneImm : (after (start 0x4342 (change := regs [(3, 0x41)]))).pc = 0x204 ∧
    (after (start 0x4342 (change := regs [(3, 0x42)]))).pc = 0x202 := by decide +kernel
theorem test_T24_seReg : (after (start 0x5120 (change := regs [(1, 7), (2, 7)]))).pc = 0x204 ∧
    (after (start 0x5120 (change := regs [(1, 7), (2, 8)]))).pc = 0x202 := by decide +kernel
theorem test_T27_T28_sneReg : (after (start 0x9120 (change := regs [(1, 7), (2, 8)]))).pc = 0x204 ∧
    (after (start 0x9110 (change := regs [(1, 9)]))).pc = 0x202 := by decide +kernel
theorem test_T29_T30_skp : (after (start 0xE59E (change := fun s => press [10] (regs [(5, 10)] s)))).pc = 0x204 ∧
    (after (start 0xE59E (change := regs [(5, 10)]))).pc = 0x202 := by decide +kernel
theorem test_T33_skp_range : let t := after (start 0xE59E (change := regs [(5, 0x10)]))
    t.pc = 0x202 ∧ latch t = (7, 0x200, 0xE59E) := by decide +kernel
theorem test_T31_T32_sknp : (after (start 0xE5A1 (change := regs [(5, 10)]))).pc = 0x204 ∧
    (after (start 0xE5A1 (change := fun s => press [10] (regs [(5, 10)] s)))).pc = 0x202 := by decide +kernel

theorem test_T11_ldImm_odd_address : let t := after (start 0x6123 0x201)
    t.getV 1 = 0x23 ∧ t.pc = 0x203 := by decide +kernel
theorem test_T42_addImm_no_flag : let t := after (start 0x71FF (change := regs [(1, 1), (15, 0x55)]))
    t.getV 1 = 0 ∧ t.getV 15 = 0x55 := by decide +kernel
theorem test_T44_ldReg : (after (start 0x8120 (change := regs [(2, 0x99)]))).getV 1 = 0x99 := by decide +kernel
theorem test_T45_or : let t := after (start 0x8121 (change := regs [(1, 0xF0), (2, 0x0F), (15, 0x77)]))
    t.getV 1 = 0xFF ∧ t.getV 15 = 0x77 := by decide +kernel
theorem test_T46_and : (after (start 0x8122 (change := regs [(1, 0xF0), (2, 0x3C)]))).getV 1 = 0x30 := by decide +kernel
theorem test_T47_xor : (after (start 0x8123 (change := regs [(1, 0xF0), (2, 0x3C)]))).getV 1 = 0xCC := by decide +kernel
theorem test_T49_add : let t := after (start 0x8124 (change := regs [(1, 0xFF), (2, 1)]))
    t.getV 1 = 0 ∧ t.getV 15 = 1 := by decide +kernel
theorem test_T53_add_y_is_VF : let t := after (start 0x81F4 (change := regs [(1, 0x10), (15, 5)]))
    t.getV 1 = 0x15 ∧ t.getV 15 = 0 := by decide +kernel
theorem test_T54_sub : let t := after (start 0x8125 (change := regs [(1, 1), (2, 2), (15, 9)]))
    t.getV 1 = 0xFF ∧ t.getV 15 = 0 := by decide +kernel
theorem test_T55_T57_sub : (after (start 0x8125 (change := regs [(1, 7), (2, 7)]))).getV 15 = 1 ∧
    (after (start 0x8F15 (change := regs [(15, 3), (1, 5)]))).getV 15 = 0 := by decide +kernel
theorem test_T59_shr : let t := after (start 0x8126 (change := regs [(1, 2), (2, 0xFF)]))
    t.getV 1 = 1 ∧ t.getV 2 = 0xFF ∧ t.getV 15 = 0 := by decide +kernel
theorem test_T60_shr_VF : (after (start 0x8F06 (change := regs [(15, 3)]))).getV 15 = 1 := by decide +kernel
theorem test_T61_subn : let t := after (start 0x8127 (change := regs [(1, 5), (2, 7)]))
    t.getV 1 = 5 ∧ t.getV 2 = 2 ∧ t.getV 15 = 1 := by decide +kernel
theorem test_T64_subn_x_is_VF : let t := after (start 0x8F27 (change := regs [(15, 9), (2, 0x10)]))
    t.getV 2 = 7 ∧ t.getV 15 = 1 := by decide +kernel
theorem test_T66_shl : let t := after (start 0x810E (change := regs [(1, 0x81)]))
    t.getV 1 = 2 ∧ t.getV 15 = 1 := by decide +kernel
theorem test_T68_shl_VF : (after (start 0x8F0E (change := regs [(15, 0x80)]))).getV 15 = 1 := by decide +kernel
theorem test_T69_rnd : let t := after (start 0xC30F (change := fun s => { s with rngQueue := [0xA7, 0x11] }))
    t.getV 3 = 7 ∧ t.rngQueue = [0x11] := by decide +kernel

theorem test_T80_ldI : (after (start 0xA2F0)).I = 0x2F0 := by decide +kernel
theorem test_T82_glyph : (after (start 0xF029 (change := regs [(0, 0xFF)]))).I = 0x4FB := by decide +kernel
theorem test_T84_T85_addI :
    (after (start 0xF21E (change := fun s => regs [(2, 1)] { s with I := 0xFFFF }))).I = 0 ∧
    (after (start 0xF21E (change := fun s => regs [(2, 1)] { s with I := 0xFFF }))).I = 0x1000 := by decide +kernel
theorem test_T86_bcd : let t := after (start 0xF033 (change := fun s => regs [(0, 0xEA)] { s with I := 0x300 }))
    t.readRun [0x300, 0x301, 0x302] = [2, 3, 4] ∧ t.I = 0x300 := by decide +kernel
theorem test_T90_bcd_wraps : let t := after (start 0xF033 (change := fun s => wrapping (regs [(0, 0x7B)] { s with I := 0xFFF })))
    t.readRun [0xFFF, 0, 1] = [1, 2, 3] := by decide +kernel
theorem test_T91_T92_store :
    (after (start 0xF255 (change := fun s => regs [(0, 1), (1, 2), (2, 3)] { s with I := 0x300 }))).readRun
      [0x300, 0x301, 0x302] = [1, 2, 3] ∧
    (after (start 0xF055 (change := fun s => regs [(0, 0xAB), (1, 0xCD)] { s with I := 0x300 }))).readRun
      [0x300, 0x301] = [0xAB, 0] := by decide +kernel
theorem test_T95_store_faults : let s := start 0xF155 (change := fun s => regs [(0, 1), (1, 2)] { s with I := 0xFFF })
    (after s).mem = s.mem ∧ (after s).pc = 0x202 ∧ latch (after s) = (5, 0x200, 0xF155) := by decide +kernel
theorem test_T94_load_all : (after (start 0xFF65 (change := fun s => bytes [(0x30F, 0x42)] { s with I := 0x300 }))).getV 15 = 0x42 := by
  decide +kernel
theorem test_T97_load_wraps :
    let t := after (start 0xF165 (change := fun s => wrapping (bytes [(0xFFF, 0x11), (0, 0x22)] { s with I := 0xFFFF })))
    t.getV 0 = 0x11 ∧ t.getV 1 = 0x22 := by decide +kernel

theorem test_T100_cls : lit (after (start 0x00E0 (change := light [(0, 0), (63, 31)]))) = [] := by decide +kernel
theorem test_T108_draw : let t := after (start 0xD011 (change := fun s =>
      bytes [(0x300, 0xC0)] (light [(3, 0), (10, 10)] (regs [(0, 2)] { s with I := 0x300 }))))
    lit t = [2, 650] ∧ t.getV 15 = 1 := by decide +kernel
theorem test_T109_T110_draw_reads_VF : let s := start 0xDF11 (change := fun s => bytes [(0x300, 0x80)] (regs [(15, 5)] { s with I := 0x300 }))
    lit (after s) = [0] ∧ lit (after { s with cfg := { s.cfg with drawCoordRead := .beforeClear } }) = [5] := by
  decide +kernel

theorem test_T120_fromDT : (after (start 0xF307 (change := fun s => { s with dt := 60 }))).getV 3 = 0x3C := by decide +kernel
theorem test_T121_toDT : (after (start 0xF315 (change := regs [(3, 0x3C)]))).dt = 60 := by decide +kernel
theorem test_T122_toST : (after (start 0xF418 (change := regs [(4, 5)]))).st = 5 := by decide +kernel
theorem test_T124_waitKey : let t := after (start 0xF50A (change := press [7, 3]))
    t.getV 5 = 3 ∧ t.pc = 0x202 := by decide +kernel
theorem test_T125_T126_waitKey : let s := start 0xF50A
    (after s).pc = 0x204 ∧ (after { s with cfg := { s.cfg with waitKeyMode := .repeatUntilPressed } }).pc = 0x200 := by
  decide +kernel

/-! ### Host transactions -/

/-- The state and the output of a transaction. -/
def done (t : Transaction) (s : State) : State × Output := match transact t s with | .next p => p | _ => (s, .none)

theorem test_H1_H2_H3_tick :
    done .tick { State.reset with dt := 2, st := 2 } = ({ State.reset with dt := 1, st := 1 }, .none) ∧
    done .tick { State.reset with dt := 1, st := 1 } = (State.reset, .soundExpired) ∧
    done .tick State.reset = (State.reset, .none) := by decide +kernel
theorem test_H5_setKey : ((done (.setKey 3 true) State.reset).1.keys).toList.findIdxs id = [3] := by decide +kernel
theorem test_H6_setKey_range :
    (done (.setKey 16 true) State.reset).1 = { State.reset with fault := ⟨.setKeyOutOfRange, 0x200, 0⟩ } := by decide +kernel
theorem test_H8_H10_load : let s := (done (.load [0x12]) (bytes [(0x201, 0x34)] State.reset)).1
    s.mem = [(0x200, 0x12), (0x201, 0x34)] ∧
    (done (.load [0x60, 0x05]) (done .reset s).1).1.mem = [(0x200, 0x60), (0x201, 0x05)] := by decide +kernel
theorem test_H7_load_too_large : let s := (done (.load (List.replicate 3585 1)) State.reset).1
    s = { State.reset with fault := ⟨.loadTooLarge, 0x200, 0⟩ } := by decide +kernel
theorem test_H11_H12_halt : let s := { State.reset with fault := ⟨.unimplementedOpcode, 0x200, 0x5121⟩ }
    (done (.step 0) s).1 = s ∧ (done .reset s).1 = State.reset := by decide +kernel
theorem test_H13_readDisplay : (match (done .readDisplay (light [(5, 3)] State.reset)).2 with
    | .display cells => cells.findIdxs id
    | _ => []) = [197] := by decide +kernel

/-- The reset memory: FONT in bytes 0 to 79 (R37, glyph F of U1 at 75), 0 above. -/
theorem test_reset_memory : State.reset.readRun [75, 76, 77, 78, 79, 80, 0x200] = [0xF0, 0x80, 0xF0, 0x80, 0x80, 0, 0] := by
  decide +kernel

/-- Writing what an unlisted address reads as unlists it: equal memories are equal data. -/
theorem test_memory_is_canonical : (bytes [(0x300, 1), (0, 7), (0x300, 0), (0, 0xF0)] State.reset).mem = [] := by decide +kernel

/-- The host's placing of a word, on a halted machine whose pc is outside memory (log entry 7). -/
theorem test_withFetchWord : let s := { State.reset with pc := 0xFFFF, fault := ⟨.fetchOutOfBounds, 0xFFFF, 0⟩ }
    (after (s.withFetchWord 16 0x6A2F)).getV 10 = 0x2F ∧ (after (s.withFetchWord 16 0x6A2F)).pc = 0x202 := by decide +kernel

/-! ### Witnesses: the hypotheses of each obligation can be met, at the edges of their ranges -/

/-- A machine halted by an unimplemented word. -/
def haltedState : State := { State.reset with fault := ⟨.unimplementedOpcode, 0x200, 0x5121⟩ }

theorem witness_EncodeOfDecodeIsTheWord : decode 0x8F27 = .ok (.subn 15 2) := by decide
theorem witness_DecodeGivesTheOneRowTheWordSelects :
    decode 0x8F27 = .ok (.subn 15 2) ∧ (∀ r ∈ opcodeTable, r.selects 0x5121 = false) ∧
    (⟨"NOP", 0xFFFF, 0x0000⟩ : OpcodeRow) ∈ opcodeTable ∧ (⟨"NOP", 0xFFFF, 0x0000⟩ : OpcodeRow).selects 0 = true := by
  decide +kernel
theorem witness_StepRunsTheDecodedInstruction : let s := start 0xF265 0xFFE
    s.fault.code = .noFault ∧ (0xFFE : Addr).val = s.pc.toNat ∧ (0xFFF : Addr).val = s.pc.toNat + 1 ∧
    decode (BitVec.ofNat 16 (256 * (s.readByte 0xFFE).toNat + (s.readByte 0xFFF).toNat)) = .ok (.loadRegs 2) := by
  decide +kernel
theorem witness_FetchOutsideMemoryLatches :
    State.reset.fault.code = .noFault ∧ ({ State.reset with pc := 0xFFF } : State).pc.toNat + 1 > 4095 ∧
    ({ State.reset with pc := 0xFFFF } : State).pc.toNat + 1 > 4095 := by decide +kernel
theorem witness_UnimplementedWordLatches : let s := start 0x5121 0xFFE
    s.fault.code = .noFault ∧ (0xFFE : Addr).val = s.pc.toNat ∧ (0xFFF : Addr).val = s.pc.toNat + 1 ∧
    (0x5121 : Word) = BitVec.ofNat 16 (256 * (s.readByte 0xFFE).toNat + (s.readByte 0xFFF).toNat) ∧
    ∀ r ∈ opcodeTable, (0x5121 : Word) &&& r.mask ≠ r.pattern := by decide +kernel
theorem witness_HaltedBlockOnlyIgnoresStep :
    haltedState.fault.code ≠ .noFault ∧ Transaction.setKey 16 true ≠ .reset ∧ ∀ r, Transaction.setKey 16 true ≠ .step r := by
  refine ⟨by decide, by decide, fun r h => by cases h⟩
theorem witness_ReturnPopsTheStack :
    ({ State.reset with sp := 1 } : State).sp.val = (0 : Fin 16).val + 1 ∧
    ({ State.reset with sp := 16 } : State).sp.val = (15 : Fin 16).val + 1 ∧
    State.reset.sp.val = 0 ∧ State.reset.fault.code = .noFault := by decide +kernel
theorem witness_CallPushesTheAdvancedPc :
    State.reset.sp.val = (0 : Fin 16).val ∧ ({ State.reset with sp := 15 } : State).sp.val = (15 : Fin 16).val ∧
    ({ State.reset with sp := 16 } : State).sp.val = 16 ∧ ({ State.reset with sp := 16 } : State).fault.code = .noFault := by
  decide +kernel
theorem witness_CallThenReturnComesBack : ({ State.reset with sp := 15 } : State).sp.val < 16 := by decide +kernel
theorem witness_KeySkipsTestTheKeyOrLatch :
    ((regs [(3, 15)] State.reset).getV 3).toNat = (15 : Fin 16).val ∧
    16 ≤ ((regs [(3, 16)] State.reset).getV 3).toNat ∧ (regs [(3, 16)] State.reset).fault.code = .noFault := by decide +kernel
theorem witness_RandomByteIsMaskedByTheImmediate :
    ({ State.reset with rngQueue := [0xA7] } : State).rngQueue = 0xA7 :: [] ∧ (0x0F : Byte).getLsbD 7 = false := by
  decide +kernel
theorem witness_BcdStoresThreeDigits :
    ({ State.reset with I := 4093 } : State).Accessible 3 ∧ (wrapping { State.reset with I := 0xFFFF }).Accessible 3 ∧
    ¬ ({ State.reset with I := 4094 } : State).Accessible 3 ∧ ({ State.reset with I := 4094 } : State).fault.code = .noFault := by
  unfold State.Accessible; decide +kernel
theorem witness_StoreRegistersWritesTheirRange :
    ({ State.reset with I := 4080 } : State).Accessible ((15 : Reg).val + 1) ∧
    ({ State.reset with I := 4095 } : State).Accessible ((0 : Reg).val + 1) ∧
    ¬ ({ State.reset with I := 4081 } : State).Accessible ((15 : Reg).val + 1) ∧
    ({ State.reset with I := 4081 } : State).fault.code = .noFault := by
  unfold State.Accessible; decide +kernel
theorem witness_LoadRegistersReadsTheirRange :
    ({ State.reset with I := 4080 } : State).Accessible ((15 : Reg).val + 1) ∧
    ¬ ({ State.reset with I := 4096 } : State).Accessible ((0 : Reg).val + 1) ∧
    ({ State.reset with I := 4096 } : State).fault.code = .noFault := by
  unfold State.Accessible; decide +kernel
theorem witness_StoreThenLoadRestoresTheRegisters :
    ({ State.reset with I := 4080 } : State).Accessible ((15 : Reg).val + 1) ∧
    (wrapping { State.reset with I := 0xFFFF }).Accessible ((15 : Reg).val + 1) := by
  unfold State.Accessible; decide +kernel
theorem witness_StoredBytesAreFetchedAsTheNextWord : let s := { State.reset with I := 0xFFE, pc := 0xFFE }
    1 ≤ (1 : Reg).val ∧ s.I.toNat + (1 : Reg).val ≤ 4095 ∧ s.I = s.pc := by decide +kernel
theorem witness_DrawTogglesTheCoveredCells :
    (0 : Fin 16).val = 0 ∧ ({ State.reset with I := 4081 } : State).Accessible (15 : Fin 16).val ∧
    (15 : Fin 16).val ≠ 0 ∧ ¬ ({ State.reset with I := 4082 } : State).Accessible (15 : Fin 16).val ∧
    ({ State.reset with I := 4082 } : State).fault.code = .noFault := by
  unfold State.Accessible; decide +kernel
/-- Glyph 0 covers the cell (3, 4), so a draw there with the cell set collides. -/
theorem witness_DrawTogglesTheCoveredCells_collision :
    let s := light [(3, 4)] State.reset
    let t := match exec (.drw 0 1 5) s with | .next t => t | _ => s
    s.fb.cell 3 4 = true ∧ t.fb.cell 3 4 = false ∧ t.getV 15 = 1 := by decide +kernel
theorem witness_DrawingTwiceErases : let s := State.reset
    (0 : Reg) ≠ 15 ∧ (1 : Reg) ≠ 15 ∧ s.Accessible (5 : Fin 16).val ∧ (∀ c r, s.fb.cell c r = false) ∧
    ∃ j < (5 : Fin 16).val, s.readByte (s.indexedAddr j) ≠ 0 := by
  refine ⟨by decide, by decide, .inr (by decide), by decide +kernel, 0, by decide, by decide +kernel⟩
theorem witness_WaitForKeyTakesTheLowestKey :
    (press [15] State.reset).keys[(15 : Fin 16).val] = true ∧
    (∀ j : Fin 16, j.val < (15 : Fin 16).val → (press [15] State.reset).keys[j.val] = false) ∧
    ∀ j : Fin 16, State.reset.keys[j.val] = false := by decide +kernel
theorem witness_SetKeySetsItsFlagOrLatches :
    16 ≤ 16 ∧ State.reset.fault.code = .noFault ∧ haltedState.fault.code ≠ .noFault := by decide +kernel
theorem witness_LoadCopiesToProgramBase :
    (List.replicate 3584 (0xAA : Byte)).length ≤ 3584 ∧ 3584 < (List.replicate 3585 (0xAA : Byte)).length ∧
    3583 < (List.replicate 3584 (0xAA : Byte)).length ∧ (4095 : Addr).val = 0x200 + 3583 ∧ (511 : Addr).val < 0x200 ∧
    State.reset.fault.code = .noFault ∧ haltedState.fault.code ≠ .noFault := by
  rw [List.length_replicate, List.length_replicate]
  decide +kernel
theorem witness_PowerOnState : let s := regs [(3, 1)] State.reset
    s.cfg = State.reset.cfg ∧ s.rngQueue = State.reset.rngQueue ∧ s.rngDraws = State.reset.rngDraws ∧ s ≠ State.reset := by
  decide +kernel
theorem witness_ReadDisplayCopiesRowMajor :
    transact .readDisplay State.reset = .next (State.reset, .display State.reset.fb.cells) := rfl

/-! The frames: an instruction that changes what the statement lets it change, and something it must not change. -/

theorem witness_OnlyListedRegistersChange :
    ∃ t, exec (.addReg 1 2) (regs [(1, 0xFF), (2, 1)] State.reset) = .next t ∧ (2 : Reg) ∉ writtenRegs (.addReg 1 2) ∧
      t.getV 1 = 0 ∧ t.getV 15 = 1 ∧ t.getV 2 = 1 := ⟨_, rfl, by decide, by decide +kernel, by decide +kernel, by decide +kernel⟩
theorem witness_OnlyStoredBytesChange : let s := regs [(0, 0xEA)] { State.reset with I := 0xFFD }
    ∃ t, exec (.storeBcd 0) s = .next t ∧ (0xFFC : Addr) ∉ storedAddrs (.storeBcd 0) s ∧
      storedAddrs (.storeBcd 0) s = [0xFFD, 0xFFE, 0xFFF] := ⟨_, rfl, by decide +kernel, by decide +kernel⟩
theorem witness_OnlyThreeInstructionsChangeI :
    ∃ t, exec (.ldI 0x2F0) State.reset = .next t ∧ t.I ≠ State.reset.I := ⟨_, rfl, by decide +kernel⟩
theorem witness_OnlyCallAndReturnTouchTheStack :
    ∃ t, exec (.call 0x300) State.reset = .next t ∧ t.sp ≠ State.reset.sp ∧
      t.stack[(0 : Fin 16).val] ≠ State.reset.stack[(0 : Fin 16).val] := ⟨_, rfl, by decide +kernel, by decide +kernel⟩
theorem witness_OnlyClearAndDrawWriteTheFramebuffer :
    ∃ t, exec .cls (light [(63, 31)] State.reset) = .next t ∧ t.fb ≠ (light [(63, 31)] State.reset).fb :=
  ⟨_, rfl, by decide +kernel⟩
theorem witness_TimersKeysParametersAndDrawsAreLeftAlone : let s := regs [(4, 5)] { State.reset with rngQueue := [1] }
    (∃ t, exec (.ldToDT 4) s = .next t ∧ t.dt ≠ s.dt) ∧ (∃ t, exec (.ldToST 4) s = .next t ∧ t.st ≠ s.st) ∧
    ∃ t, exec (.rnd 3 0xFF) s = .next t ∧ t.rngQueue ≠ s.rngQueue ∧ t.rngDraws ≠ s.rngDraws :=
  ⟨⟨_, rfl, by decide +kernel⟩, ⟨_, rfl, by decide +kernel⟩, ⟨_, rfl, by decide +kernel, by decide +kernel⟩⟩
theorem witness_OnlyControlFlowMovesPc :
    ∃ t, exec (.jp 0xABC) State.reset = .next t ∧ t.pc ≠ State.reset.pc := ⟨_, rfl, by decide +kernel⟩

theorem witness_InstructionsFaultExactlyAsRuled :
    State.reset.fault.code = .noFault ∧ ownFault .ret State.reset ≠ .noFault ∧ ownFault .nop State.reset = .noFault ∧
    ownFault (.drw 0 0 15) { State.reset with I := 4081 } = .noFault ∧
    ownFault (.drw 0 0 15) { State.reset with I := 4082 } = .memOutOfBounds ∧
    ownFault (.drw 0 0 0) { State.reset with I := 0xFFFF } = .noFault := by decide +kernel
theorem witness_FaultsArePrecise : let s := start 0x5121
    s.fault.code = .noFault ∧ (done (.step 0) s).1.fault.code ≠ .noFault ∧
    transact (.step 0) s = .next (done (.step 0) s) := ⟨by decide +kernel, by decide +kernel, rfl⟩
theorem witness_FirstFaultStaysUntilReset :
    haltedState.fault.code ≠ .noFault ∧ Transaction.reset ∉ [Transaction.setKey 16 true, .step 0] ∧
    transactAll [.setKey 16 true, .step 0] haltedState = .next (haltedState, [.none, .none]) :=
  ⟨by decide, by decide, rfl⟩

theorem witness_EveryStepKeepsTheInvariant :
    State.reset.Inv ∧ step State.reset = .next { State.reset with pc := 0x202 } :=
  ⟨⟨⟨List.Pairwise.nil, by intro c h; cases h⟩, rfl, rfl⟩, rfl⟩
/-- A state that lists a byte and has a fault latched meets the invariant too. -/
theorem witness_EveryStepKeepsTheInvariant_faulted :
    ({ State.reset with mem := [(0x200, 0x51)], fault := ⟨.unimplementedOpcode, 0xFFE, 0x5121⟩ } : State).Inv :=
  ⟨by decide +kernel, (by decide +kernel : wordWellFormed 0x5121 = false ∧ (0xFFE : Word).toNat + 1 ≤ 4095)⟩
theorem witness_EveryTransactionSequenceKeepsTheInvariant :
    State.reset.Inv ∧ transactAll [.load [0x60], .tick] State.reset =
      .next ({ State.reset with mem := [(0x200, 0x60)] }, [.none, .none]) :=
  ⟨⟨⟨List.Pairwise.nil, by intro c h; cases h⟩, rfl, rfl⟩, rfl⟩

theorem witness_PoppedStackEntriesCannotBeSeen :
    let s := { State.reset with sp := 1 }
    let s' := { s with stack := s.stack.set 1 0x777 }
    s.SameButDeadStack s' ∧ s ≠ s' ∧ transactAll [.tick] s = .next (s, [.none]) := by
  refine ⟨⟨rfl, ?_⟩, by decide +kernel, rfl⟩
  decide +kernel
theorem witness_NoInstructionReadsTheSoundTimer : step State.reset = .next { State.reset with pc := 0x202 } := rfl
theorem witness_IdleStateIsAFixedPoint : (start 0x1200).runStatus = .idle 0x200 := by decide +kernel
theorem witness_PlacedInstructionRunsNext :
    State.reset.fault.code = .noFault ∧ State.reset.pc.toNat + 1 ≤ 4095 ∧
    ({ State.reset with pc := 0xFFE } : State).pc.toNat + 1 ≤ 4095 := by decide +kernel

end Sys2Proof.Tests
end

/-! SUPPORT. The state family (spec/10_state.md): all that an instruction can do to the state, said once, and the frames,
the invariant and the hidden state that follow from it. -/

namespace Sys2Proof.Machine

/-! ### Which instructions may move pc, and which write I -/

/-- The instructions that put a value of their own in pc (spec/10_state.md R24). -/
def ControlFlow (i : Instr) : Prop :=
  i = .ret ∨ (∃ nnn, i = .jp nnn ∨ i = .call nnn ∨ i = .jpV0 nnn) ∨
  (∃ x nn, i = .seImm x nn ∨ i = .sneImm x nn) ∨ (∃ x y, i = .seReg x y ∨ i = .sneReg x y) ∨
  (∃ x, i = .skp x ∨ i = .sknp x ∨ i = .waitKey x)

/-- The three instructions that write I (R25). -/
def WritesI (i : Instr) : Prop := (∃ nnn, i = .ldI nnn) ∨ (∃ x, i = .addI x) ∨ (∃ x, i = .ldGlyph x)

/-! ### All that an instruction can do -/

/-- What an instruction whose own check passes does to the state: `Effect i s t` lists every way from `s` to `t`. -/
inductive Effect : Instr → State → State → Prop
  /-- Only registers the tables list for the instruction change (R21, R22). -/
  | regs {i s v} (kept : ∀ r : Reg, r ∉ writtenRegs i → v[r.val] = s.getV r) : Effect i s { s with v := v }
  /-- Cxnn takes one draw (R160). -/
  | draw {x nn s b} : Effect (.rnd x nn) s (s.drawTaken.setV x b)
  /-- Dxyn writes the framebuffer and its flag (R192). -/
  | sprite {x y n s fb b} : Effect (.drw x y n) s (((s.setV .vf 0).setFb fb).setV .vf b)
  | clear {s} : Effect .cls s (s.setFb .blank)
  | pc {i s w} (hi : ControlFlow i) : Effect i s (s.setPc w)
  /-- 00EE takes the top entry and leaves every entry its value (R102). -/
  | ret {s sp w} (depth : s.sp.val = sp.val + 1) (top : ∀ k : Fin 16, k.val = sp.val → w = s.stack[k.val]) :
      Effect .ret s { s with pc := w, sp := sp }
  /-- 2nnn writes the entry at the old depth (R104). -/
  | call {nnn s sp stack} (depth : sp.val = s.sp.val + 1)
      (entries : ∀ k : Fin 16, stack[k.val] = if k.val = s.sp.val then s.pc else s.stack[k.val]) :
      Effect (.call nnn) s { s with pc := zextAddr nnn, sp := sp, stack := stack }
  | index {i s w} (hi : WritesI i) : Effect i s (s.setI w)
  | delay {x s} : Effect (.ldToDT x) s (s.setDT (s.getV x))
  | sound {x s} : Effect (.ldToST x) s (s.setST (s.getV x))
  /-- Bytes are stored, at the addresses of R53 only. -/
  | store {i s bs} : Effect i s (s.writeRun (storedAddrs i s) bs)

/-- No change at all is an effect of every instruction. -/
theorem Effect.same (i : Instr) (s : State) : Effect i s s := .regs fun _ _ => rfl

theorem Effect.setV {i : Instr} {x : Reg} (hx : x ∈ writtenRegs i) (s : State) (b : Byte) : Effect i s (s.setV x b) :=
  .regs fun r hr => (State.getV_setV s x r b).trans (if_neg (ne_of_mem_of_not_mem hx hr).symm)

theorem Effect.setResultAndFlag {i : Instr} {x : Reg} (hx : x ∈ writtenRegs i) (hf : Reg.vf ∈ writtenRegs i) (s : State)
    (b flag : Byte) : Effect i s (s.setResultAndFlag x b flag) :=
  .regs fun r hr => (State.getV_setResultAndFlag s x r b flag).trans <| by
    rw [if_neg (ne_of_mem_of_not_mem hf hr).symm, if_neg (ne_of_mem_of_not_mem hx hr).symm]

theorem Effect.skipIf {i : Instr} (hi : ControlFlow i) (s : State) (b : Bool) : Effect i s (s.skipIf b) := by
  cases b with
  | false => exact .same i s
  | true => exact .pc hi

/-- A run of register writes leaves the registers above it alone (R177). -/
theorem State.getV_loadRegsFrom_above (s : State) {i : Nat} {bs : List Byte} {r : Reg} (h : i + bs.length ≤ r.val) :
    (s.loadRegsFrom i bs).getV r = s.getV r := by
  induction bs generalizing s i with
  | nil => rfl
  | cons b bs ih =>
    rw [List.length_cons] at h
    have hne : r ≠ Fin.ofNat 16 i := fun he => by
      have := congrArg Fin.val he
      simp only [Fin.val_ofNat] at this
      omega
    rw [State.loadRegsFrom, ih _ (by omega), State.getV_setV, if_neg hne]

theorem Effect.loadRegs {x : Reg} {bs : List Byte} (hl : bs.length = x.val + 1) (s : State) :
    Effect (.loadRegs x) s (s.loadRegsFrom 0 bs) := by
  rw [State.loadRegsFrom_eq]
  refine .regs fun r hr => State.getV_loadRegsFrom_above s ?_
  have : ¬ r.val ≤ x.val := by simpa [writtenRegs] using hr
  omega

/-! ### The check of an instruction that accesses memory (R55, R230) -/

/-- The code of `ownFault` for an access of `n` bytes whose addresses do not resolve. -/
theorem accessFault_of_none {s : State} {n : Nat} (h : s.indexed n = none) :
    (if 0 < n ∧ s.cfg.oobPolicy = .fault ∧ 4095 < s.I.toNat + n - 1 then FaultCode.memOutOfBounds else .noFault) =
      .memOutOfBounds := if_pos ((s.indexed_eq_none_iff n).mp h)

theorem accessFault_of_some {s : State} {n : Nat} {addrs : List Addr} (h : s.indexed n = some addrs) :
    (if 0 < n ∧ s.cfg.oobPolicy = .fault ∧ 4095 < s.I.toNat + n - 1 then FaultCode.memOutOfBounds else .noFault) =
      .noFault := if_neg fun h' => by rw [(s.indexed_eq_none_iff n).mpr h'] at h; cases h

/-- The two ways an instruction ends in state `t`: its own check fails and it raises that fault, or the check passes and it
has its effect. -/
def Ends (i : Instr) (s t : State) : Prop :=
  (ownFault i s ≠ .noFault ∧ t = s.raiseExec (ownFault i s) i) ∨ (ownFault i s = .noFault ∧ Effect i s t)

theorem Ends.raise {i : Instr} {s : State} {c : FaultCode} (h : ownFault i s = c) (hc : c ≠ .noFault) :
    Ends i s (s.raiseExec c i) := h ▸ .inl ⟨fun h' => hc (h ▸ h'), rfl⟩

theorem execRet_ends {s t : State} (h : execRet s = .next t) : Ends .ret s t := by
  unfold execRet at h
  split at h <;> cases h
  · rename_i w s' hp
    obtain ⟨hpos, hs', hsp, hw⟩ := State.pop_some hp
    have hdepth : s.sp.val = s'.sp.val + 1 := by omega
    rw [hs']
    exact .inr ⟨if_neg (by omega), .ret hdepth fun k hk => by simp only [hw, hk, hsp]⟩
  · rename_i hp
    exact .raise (if_pos ((State.pop_eq_none_iff s).mp hp)) (by decide)

theorem execCall_ends {nnn : BitVec 12} {s t : State} (h : execCall nnn s = .next t) : Ends (.call nnn) s t := by
  unfold execCall at h
  split at h <;> cases h
  · rename_i s' hp
    obtain ⟨hroom, hs', hsp, hentries⟩ := State.push_some hp
    rw [hs']
    exact .inr ⟨if_neg (by omega), .call hsp hentries⟩
  · rename_i hp
    exact .raise (if_pos ((State.push_eq_none_iff s _).mp hp)) (by decide)

theorem State.keyOf_eq_none_iff (s : State) (x : Reg) : s.keyOf x = none ↔ 16 ≤ (s.getV x).toNat := by
  unfold State.keyOf
  split <;> simp <;> omega

theorem keyFault_of_some {s : State} {x : Reg} {p : Bool} (h : s.keyOf x = some p) :
    (if 16 ≤ (s.getV x).toNat then FaultCode.keyIndexOutOfRange else .noFault) = .noFault :=
  if_neg fun h' => by rw [(s.keyOf_eq_none_iff x).mpr h'] at h; cases h

theorem execSkp_ends {x : Reg} {s t : State} (h : execSkp x s = .next t) : Ends (.skp x) s t := by
  unfold execSkp at h
  split at h <;> cases h
  · exact .inr ⟨keyFault_of_some ‹_›, .skipIf (by simp [ControlFlow]) s _⟩
  · exact .raise (if_pos ((s.keyOf_eq_none_iff x).mp ‹_›)) (by decide)

theorem execSknp_ends {x : Reg} {s t : State} (h : execSknp x s = .next t) : Ends (.sknp x) s t := by
  unfold execSknp at h
  split at h <;> cases h
  · exact .inr ⟨keyFault_of_some ‹_›, .skipIf (by simp [ControlFlow]) s _⟩
  · exact .raise (if_pos ((s.keyOf_eq_none_iff x).mp ‹_›)) (by decide)

theorem execDrw_ends {x y : Reg} {n : Fin 16} {s t : State} (h : execDrw x y n s = .next t) : Ends (.drw x y n) s t := by
  unfold execDrw at h
  split at h <;> cases h
  · exact .inr ⟨accessFault_of_some ‹_›, .sprite⟩
  · exact .raise (accessFault_of_none ‹_›) (by decide)

theorem storedAddrs_storeBcd {x : Reg} {s : State} {addrs : List Addr} (h : s.indexed 3 = some addrs) :
    storedAddrs (.storeBcd x) s = addrs := by
  simp [storedAddrs, accessCount, h]

theorem storedAddrs_storeRegs {x : Reg} {s : State} {addrs : List Addr} (h : s.indexed (x.val + 1) = some addrs) :
    storedAddrs (.storeRegs x) s = addrs := by
  simp [storedAddrs, accessCount, h]

theorem execStoreBcd_ends {x : Reg} {s t : State} (h : execStoreBcd x s = .next t) : Ends (.storeBcd x) s t := by
  unfold execStoreBcd at h
  split at h <;> cases h
  · rename_i ha
    exact .inr ⟨accessFault_of_some ha, storedAddrs_storeBcd (x := x) ha ▸ .store⟩
  · exact .raise (accessFault_of_none ‹_›) (by decide)

theorem execStoreRegs_ends {x : Reg} {s t : State} (h : execStoreRegs x s = .next t) : Ends (.storeRegs x) s t := by
  unfold execStoreRegs at h
  split at h <;> cases h
  · rename_i ha
    exact .inr ⟨accessFault_of_some ha, storedAddrs_storeRegs ha ▸ .store⟩
  · exact .raise (accessFault_of_none ‹_›) (by decide)

theorem execLoadRegs_ends {x : Reg} {s t : State} (h : execLoadRegs x s = .next t) : Ends (.loadRegs x) s t := by
  unfold execLoadRegs at h
  split at h <;> cases h
  · rename_i ha
    exact .inr ⟨accessFault_of_some ha, .loadRegs (by simp [State.readRun, (State.indexed_some ha).1]) s⟩
  · exact .raise (accessFault_of_none ‹_›) (by decide)

theorem execWaitKey_ends {x : Reg} {s t : State} (h : execWaitKey x s = .next t) : Ends (.waitKey x) s t := by
  refine .inr ⟨rfl, ?_⟩
  unfold execWaitKey at h
  split at h
  · cases h; exact .setV (by simp [writtenRegs]) s _
  · split at h <;> cases h <;> exact .pc (by simp [ControlFlow])

/-- All that an instruction can do (R21 to R29, R53, R230, R233). -/
theorem exec_ends {i : Instr} {s t : State} (h : exec i s = .next t) : Ends i s t := by
  cases i with
  | ret => exact execRet_ends h
  | call nnn => exact execCall_ends h
  | skp x => exact execSkp_ends h
  | sknp x => exact execSknp_ends h
  | drw x y n => exact execDrw_ends h
  | waitKey x => exact execWaitKey_ends h
  | storeBcd x => exact execStoreBcd_ends h
  | storeRegs x => exact execStoreRegs_ends h
  | loadRegs x => exact execLoadRegs_ends h
  | nop => cases h; exact .inr ⟨rfl, .same _ s⟩
  | cls => cases h; exact .inr ⟨rfl, .clear⟩
  | rnd x nn => cases h; exact .inr ⟨rfl, .draw⟩
  | ldToDT x => cases h; exact .inr ⟨rfl, .delay⟩
  | ldToST x => cases h; exact .inr ⟨rfl, .sound⟩
  | jp _ | jpV0 _ => cases h; exact .inr ⟨rfl, .pc (by simp [ControlFlow])⟩
  | seImm _ _ | sneImm _ _ | seReg _ _ | sneReg _ _ =>
    cases h; exact .inr ⟨rfl, .skipIf (by simp [ControlFlow]) s _⟩
  | ldI _ | addI _ | ldGlyph _ => cases h; exact .inr ⟨rfl, .index (by simp [WritesI])⟩
  | ldImm _ _ | addImm _ _ | ldReg _ _ | orReg _ _ | andReg _ _ | xorReg _ _ | ldFromDT _ =>
    cases h; exact .inr ⟨rfl, .setV (by simp [writtenRegs]) s _⟩
  | addReg _ _ | subReg _ _ | shr _ _ | subn _ _ | shl _ _ =>
    cases h; exact .inr ⟨rfl, .setResultAndFlag (by simp [writtenRegs]) (by simp [writtenRegs]) s _ _⟩

end Sys2Proof.Machine

namespace Sys2Proof.Machine

/-! ### Frames: what an instruction leaves alone -/

theorem Effect.getV_eq {i : Instr} {s t : State} (h : Effect i s t) {r : Reg} (hr : r ∉ writtenRegs i) :
    t.getV r = s.getV r := by
  cases h with
  | regs kept => exact kept r hr
  | draw => rw [State.getV_setV, if_neg (by simpa [writtenRegs] using hr)]; rfl
  | sprite =>
    have hvf : r ≠ .vf := by simpa [writtenRegs] using hr
    rw [State.getV_setV, if_neg hvf]
    exact (State.getV_setV ..).trans (if_neg hvf)
  | store => simp [State.getV]
  | _ => rfl

theorem Effect.I_eq {i : Instr} {s t : State} (h : Effect i s t) : t.I = s.I ∨ WritesI i := by
  cases h with
  | index hi => exact .inr hi
  | store => exact .inl (by simp)
  | _ => exact .inl rfl

theorem Effect.pc_eq {i : Instr} {s t : State} (h : Effect i s t) : t.pc = s.pc ∨ ControlFlow i := by
  cases h with
  | pc hi => exact .inr hi
  | ret => exact .inr (by simp [ControlFlow])
  | call => exact .inr (by simp [ControlFlow])
  | store => exact .inl (by simp)
  | _ => exact .inl rfl

theorem Effect.sp_eq {i : Instr} {s t : State} (h : Effect i s t) : t.sp = s.sp ∨ i = .ret ∨ ∃ nnn, i = .call nnn := by
  cases h with
  | ret => exact .inr (.inl rfl)
  | call => exact .inr (.inr ⟨_, rfl⟩)
  | store => exact .inl (by simp)
  | _ => exact .inl rfl

theorem Effect.entry_eq {i : Instr} {s t : State} (h : Effect i s t) (k : Fin 16) :
    t.stack[k.val] = s.stack[k.val] ∨ (∃ nnn, i = .call nnn) ∧ k.val = s.sp.val := by
  cases h with
  | call _ entries =>
    by_cases hk : k.val = s.sp.val
    · exact .inr ⟨⟨_, rfl⟩, hk⟩
    · exact .inl ((entries k).trans (if_neg hk))
  | store => exact .inl (by simp)
  | _ => exact .inl rfl

theorem Effect.cfg_eq {i : Instr} {s t : State} (h : Effect i s t) : t.cfg = s.cfg := by
  cases h with
  | store => simp
  | _ => rfl

theorem Effect.fault_eq {i : Instr} {s t : State} (h : Effect i s t) : t.fault = s.fault := by
  cases h with
  | store => simp
  | _ => rfl

/-- The bytes of memory that are stored keep its canonical form. -/
theorem Effect.mem_wf {i : Instr} {s t : State} (h : Effect i s t) (hw : s.mem.wf s.cfg) : t.mem.wf t.cfg := by
  rw [h.cfg_eq]
  cases h with
  | store => exact State.wf_writeRun _ _ hw
  | _ => exact hw

end Sys2Proof.Machine

section
open Sys2Proof Sys2Proof.Machine

/-- Settles O43: a raised fault changes no register, and an effect only those listed. -/
theorem onlyListedRegistersChange : Obligations.OnlyListedRegistersChange := by
  intro i s t h r hr
  rcases exec_ends h with ⟨-, rfl⟩ | ⟨-, he⟩
  · simp [State.getV]
  · exact he.getV_eq hr

/-- Settles O45, by the frame of I. -/
theorem onlyThreeInstructionsChangeI : Obligations.OnlyThreeInstructionsChangeI := by
  intro i s t h hI
  rcases exec_ends h with ⟨-, rfl⟩ | ⟨-, he⟩
  · exact absurd (State.raiseExec_I ..) hI
  · exact he.I_eq.resolve_left hI

/-- Settles O46, by the frames of the depth and of one entry. -/
theorem onlyCallAndReturnTouchTheStack : Obligations.OnlyCallAndReturnTouchTheStack := by
  intro i s t h
  rcases exec_ends h with ⟨-, rfl⟩ | ⟨-, he⟩
  · exact ⟨fun hsp => absurd (State.raiseExec_sp ..) hsp, fun k hk => absurd (by rw [State.raiseExec_stack]) hk⟩
  · exact ⟨he.sp_eq.resolve_left, fun k => (he.entry_eq k).resolve_left⟩

/-- Settles O49, by the frame of pc. -/
theorem onlyControlFlowMovesPc : Obligations.OnlyControlFlowMovesPc := by
  intro i s t h hpc
  rcases exec_ends h with ⟨-, rfl⟩ | ⟨-, he⟩
  · exact absurd (State.raiseExec_pc ..) hpc
  · exact he.pc_eq.resolve_left hpc

end

namespace Sys2Proof.Machine

/-! ### Sequences of transactions (R41) -/

/-- A STEP transaction answers the state of its step with the RNG input put back (R40). -/
theorem transact_step_of_step {s t : State} {r : Byte} (h : step (s.offerRandom r) = .next t) :
    transact (.step r) s = .next (t.withQueue s.rngQueue, .none) := by
  simp only [transact, State.stepWith, h]

theorem transact_next (tr : Transaction) (s : State) : ∃ t o, transact tr s = .next (t, o) := by
  cases tr with
  | step r =>
    obtain ⟨t, h⟩ := step_next (s.offerRandom r)
    exact ⟨_, _, transact_step_of_step h⟩
  | _ => exact ⟨_, _, rfl⟩

/-- The state a STEP transaction answers comes from a step. -/
theorem step_of_transact_step {s t : State} {r : Byte} {o : Output} (h : transact (.step r) s = .next (t, o)) :
    ∃ u, step (s.offerRandom r) = .next u ∧ t = u.withQueue s.rngQueue ∧ o = .none := by
  obtain ⟨u, hu⟩ := step_next (s.offerRandom r)
  rw [transact_step_of_step hu] at h
  cases h
  exact ⟨u, hu, rfl, rfl⟩

theorem transactAll_cons {tr : Transaction} {ts : List Transaction} {s t u : State} {o : Output} {os : List Output}
    (h : transact tr s = .next (t, o)) (hs : transactAll ts t = .next (u, os)) :
    transactAll (tr :: ts) s = .next (u, o :: os) := by
  simp only [transactAll, h, hs]

/-- No sequence of transactions stops the model, and each transaction has one output. -/
theorem transactAll_next (ts : List Transaction) (s : State) :
    ∃ t os, transactAll ts s = .next (t, os) ∧ os.length = ts.length := by
  induction ts generalizing s with
  | nil => exact ⟨s, [], rfl, rfl⟩
  | cons tr ts ih =>
    obtain ⟨t, o, h⟩ := transact_next tr s
    obtain ⟨u, os, hs, hl⟩ := ih t
    exact ⟨u, o :: os, transactAll_cons h hs, by rw [List.length_cons, List.length_cons, hl]⟩

/-- A sequence with a first transaction is that transaction and then the rest. -/
theorem transactAll_cons_inv {tr : Transaction} {ts : List Transaction} {s u : State} {os : List Output}
    (h : transactAll (tr :: ts) s = .next (u, os)) :
    ∃ t o os', transact tr s = .next (t, o) ∧ transactAll ts t = .next (u, os') ∧ os = o :: os' := by
  obtain ⟨t, o, ht⟩ := transact_next tr s
  obtain ⟨u', os', hs, -⟩ := transactAll_next ts t
  rw [transactAll_cons ht hs] at h
  cases h
  exact ⟨t, o, os', ht, hs, rfl⟩

/-- What every transaction keeps, every sequence of transactions keeps. -/
theorem transactAll_keeps {P : State → Prop}
    (keep : ∀ (tr : Transaction) (s t : State) (o : Output), P s → transact tr s = .next (t, o) → P t)
    {ts : List Transaction} {s t : State} {os : List Output} (hs : P s) (h : transactAll ts s = .next (t, os)) : P t := by
  induction ts generalizing s os with
  | nil => cases h; exact hs
  | cons tr ts ih =>
    obtain ⟨u, o, os', hu, ht, -⟩ := transactAll_cons_inv h
    exact ih (keep tr s u o hs hu) ht

/-! ### A word that some row selects decodes (R76, R77) -/

open Laws in
/-- A mask that keeps the group fixes the group. -/
theorem fieldG_of_mask_F000 {w p : Word} (h : w &&& 0xF000 = p) : fieldG w = fieldG p := by
  rw [← h, ← formatXYN_fields w, formatXYN_and_F000, fieldG_formatXYN, fieldG_formatXYN]

open Laws in
theorem fields_of_mask_F00F {w p : Word} (h : w &&& 0xF00F = p) : fieldG w = fieldG p ∧ fieldN w = fieldN p := by
  rw [← h, ← formatXYN_fields w, formatXYN_and_F00F]
  simp

open Laws in
theorem fields_of_mask_F0FF {w p : Word} (h : w &&& 0xF0FF = p) : fieldG w = fieldG p ∧ fieldNN w = fieldNN p := by
  rw [← h, ← formatXK_fields w, formatXK_and_F0FF]
  simp

theorem eq_of_mask_FFFF {w p : Word} (h : w &&& 0xFFFF = p) : w = p := by
  rw [← h]; exact BitVec.and_allOnes.symm

/-- The groups of R76 that are one row each. -/
def plainGroups : List (BitVec 4) := [0x1, 0x2, 0x3, 0x4, 0x6, 0x7, 0xA, 0xB, 0xC, 0xD]

/-- The rows of R76 told apart by group and low digit. -/
def digitCodes : List (BitVec 4 × BitVec 4) :=
  [(0x5, 0x0), (0x8, 0x0), (0x8, 0x1), (0x8, 0x2), (0x8, 0x3), (0x8, 0x4), (0x8, 0x5), (0x8, 0x6), (0x8, 0x7), (0x8, 0xE),
    (0x9, 0x0)]

/-- The rows of R76 told apart by group and low byte. -/
def byteCodes : List (BitVec 4 × Byte) :=
  [(0xE, 0x9E), (0xE, 0xA1), (0xF, 0x07), (0xF, 0x0A), (0xF, 0x15), (0xF, 0x18), (0xF, 0x1E), (0xF, 0x29), (0xF, 0x33),
    (0xF, 0x55), (0xF, 0x65)]

/-- The four masks of R76, with what the pattern of a row under each can be. -/
theorem opcodeTable_masks : ∀ r ∈ opcodeTable,
    (r.mask = 0xF000 ∧ fieldG r.pattern ∈ plainGroups) ∨
    (r.mask = 0xF00F ∧ (fieldG r.pattern, fieldN r.pattern) ∈ digitCodes) ∨
    (r.mask = 0xF0FF ∧ (fieldG r.pattern, fieldNN r.pattern) ∈ byteCodes) ∨
    (r.mask = 0xFFFF ∧ r.pattern ∈ [0x0000, 0x00E0, 0x00EE]) := by decide

theorem decode_ok_of_plainGroup {w : Word} (h : fieldG w ∈ plainGroups) : ∃ i, decode w = .ok i := by
  simp only [plainGroups, List.mem_cons, List.not_mem_nil, or_false] at h
  rcases h with h | h | h | h | h | h | h | h | h | h <;> (rw [decode, h]; exact ⟨_, rfl⟩)

theorem decode_ok_of_digitCode {w : Word} (h : (fieldG w, fieldN w) ∈ digitCodes) : ∃ i, decode w = .ok i := by
  simp only [digitCodes, List.mem_cons, List.not_mem_nil, or_false, Prod.mk.injEq] at h
  rcases h with ⟨hg, hn⟩ | ⟨hg, hn⟩ | ⟨hg, hn⟩ | ⟨hg, hn⟩ | ⟨hg, hn⟩ | ⟨hg, hn⟩ | ⟨hg, hn⟩ | ⟨hg, hn⟩ | ⟨hg, hn⟩ |
    ⟨hg, hn⟩ | ⟨hg, hn⟩ <;> (simp only [decode, hg, decodeXY0, decodeGroup8, hn]; exact ⟨_, rfl⟩)

theorem decode_ok_of_byteCode {w : Word} (h : (fieldG w, fieldNN w) ∈ byteCodes) : ∃ i, decode w = .ok i := by
  simp only [byteCodes, List.mem_cons, List.not_mem_nil, or_false, Prod.mk.injEq] at h
  rcases h with ⟨hg, hn⟩ | ⟨hg, hn⟩ | ⟨hg, hn⟩ | ⟨hg, hn⟩ | ⟨hg, hn⟩ | ⟨hg, hn⟩ | ⟨hg, hn⟩ | ⟨hg, hn⟩ | ⟨hg, hn⟩ |
    ⟨hg, hn⟩ | ⟨hg, hn⟩ <;> (simp only [decode, hg, decodeGroupE, decodeGroupF, hn]; exact ⟨_, rfl⟩)

theorem decode_ok_of_fixedWord {w : Word} (h : w ∈ [0x0000, 0x00E0, 0x00EE]) : ∃ i, decode w = .ok i := by
  simp only [List.mem_cons, List.not_mem_nil, or_false] at h
  rcases h with rfl | rfl | rfl <;> exact ⟨_, rfl⟩

/-- A word that a row of the opcode map selects is the word of an instruction. -/
theorem decode_ok_of_selects {r : OpcodeRow} (hr : r ∈ opcodeTable) {w : Word} (h : r.selects w = true) :
    ∃ i, decode w = .ok i := by
  have hw : w &&& r.mask = r.pattern := by simpa [OpcodeRow.selects] using h
  rcases opcodeTable_masks r hr with ⟨hm, hp⟩ | ⟨hm, hp⟩ | ⟨hm, hp⟩ | ⟨hm, hp⟩ <;> rw [hm] at hw
  · exact decode_ok_of_plainGroup (fieldG_of_mask_F000 hw ▸ hp)
  · obtain ⟨hg, hn⟩ := fields_of_mask_F00F hw
    exact decode_ok_of_digitCode (hg ▸ hn ▸ hp)
  · obtain ⟨hg, hn⟩ := fields_of_mask_F0FF hw
    exact decode_ok_of_byteCode (hg ▸ hn ▸ hp)
  · exact decode_ok_of_fixedWord (eq_of_mask_FFFF hw ▸ hp)

/-- A word that does not decode is no well-formed word (R80). -/
theorem not_wordWellFormed_of_decode_error {w : Word} {e : DecodeError} (h : decode w = .error e) :
    wordWellFormed w = false := by
  refine Bool.eq_false_iff.mpr fun hw => ?_
  obtain ⟨r, hr, hs⟩ := List.any_eq_true.mp hw
  obtain ⟨i, hi⟩ := decode_ok_of_selects hr hs
  rw [hi] at h
  cases h

/-! ### The invariant (R230) -/

theorem consistent_of_ite {p : Prop} [Decidable p] {c : FaultCode} {pc w : Word}
    (h : (if p then c else .noFault) ≠ .noFault) (hc : FaultLatch.consistent ⟨c, pc, w⟩) :
    FaultLatch.consistent ⟨if p then c else .noFault, pc, w⟩ := by
  rw [if_pos (ite_ne_right_iff.mp h).1]; exact hc

/-- The latch that an instruction's own check fills is one that R230 lists. -/
theorem consistent_ownFault {i : Instr} {s : State} (h : ownFault i s ≠ .noFault) {pc : Word} (hpc : pc.toNat + 1 ≤ 4095) :
    FaultLatch.consistent ⟨ownFault i s, pc, encode i⟩ := by
  cases i with
  | ret => exact consistent_of_ite h ⟨rfl, hpc⟩
  | call nnn => exact consistent_of_ite h ⟨⟨nnn, rfl⟩, hpc⟩
  | skp x => exact consistent_of_ite h ⟨⟨x, .inl rfl⟩, hpc⟩
  | sknp x => exact consistent_of_ite h ⟨⟨x, .inr rfl⟩, hpc⟩
  | drw x y n => exact consistent_of_ite h ⟨⟨x, y, n, .inl rfl⟩, hpc⟩
  | storeBcd x => exact consistent_of_ite h ⟨⟨x, 0, 0, .inr (.inl rfl)⟩, hpc⟩
  | storeRegs x => exact consistent_of_ite h ⟨⟨x, 0, 0, .inr (.inr (.inl rfl))⟩, hpc⟩
  | loadRegs x => exact consistent_of_ite h ⟨⟨x, 0, 0, .inr (.inr (.inr rfl))⟩, hpc⟩
  | _ => exact absurd rfl h

theorem State.pc_of_fetchWord {s : State} {w : Word} (h : s.fetchWord = some w) : s.pc.toNat + 1 ≤ 4095 := by
  by_contra hpc
  rw [(s.fetchWord_eq_none_iff).mpr (by omega)] at h
  cases h

theorem State.Inv.raise {s : State} (hs : s.Inv) {c : FaultCode} {p w : Word} (hc : FaultLatch.consistent ⟨c, p, w⟩) :
    (s.raise c p w).Inv := by
  rcases s.raise_cases c p w with ⟨-, h⟩ | ⟨-, h⟩ <;> rw [h]
  · exact ⟨hs.1, hc⟩
  · exact hs

theorem State.Inv.writeRun {s : State} (hs : s.Inv) (addrs : List Addr) (bs : List Byte) : (s.writeRun addrs bs).Inv := by
  obtain ⟨hmem, hfault⟩ := hs
  exact ⟨by rw [State.writeRun_cfg]; exact State.wf_writeRun addrs bs hmem, by rw [State.writeRun_fault]; exact hfault⟩

/-- An instruction keeps the invariant when it was fetched from a place in memory. -/
theorem State.Inv.exec {s t : State} {i : Instr} (hs : s.Inv) (hpc : (s.pc - 2).toNat + 1 ≤ 4095)
    (h : exec i s = .next t) : t.Inv := by
  rcases exec_ends h with ⟨hc, rfl⟩ | ⟨-, he⟩
  · exact hs.raise (consistent_ownFault hc hpc)
  · exact ⟨he.mem_wf hs.1, he.fault_eq ▸ hs.2⟩

theorem State.Inv.step {s t : State} (hs : s.Inv) (h : step s = .next t) : t.Inv := by
  rcases step_cases s with ⟨-, hst⟩ | ⟨-, hf, hst⟩ | ⟨w, e, -, hf, hd, hst⟩ | ⟨w, i, -, hf, -, hst⟩ <;> rw [hst] at h
  · cases h; exact hs
  · cases h; exact ⟨hs.1, rfl, s.fetchWord_eq_none_iff.mp hf⟩
  · cases h; exact ⟨hs.1, not_wordWellFormed_of_decode_error hd, State.pc_of_fetchWord hf⟩
  · have hs' : State.Inv { s with pc := s.pc + 2 } := hs
    exact hs'.exec (by rw [BitVec.add_sub_cancel]; exact State.pc_of_fetchWord hf) h

theorem State.Inv.transact {s t : State} {tr : Transaction} {o : Output} (hs : s.Inv)
    (h : transact tr s = .next (t, o)) : t.Inv := by
  cases tr with
  | reset => cases h; exact ⟨MemoryLaws.wf_nil _, rfl, rfl⟩
  | load b =>
    cases h
    unfold State.load
    split
    · exact hs.raise rfl
    · exact hs.writeRun _ _
  | step r =>
    obtain ⟨u, hu, rfl, -⟩ := step_of_transact_step h
    have hr : (s.offerRandom r).Inv := hs
    exact (hr.step hu : u.Inv)
  | tick => cases h; exact hs
  | setKey k p =>
    cases h
    unfold State.setKey
    split
    · exact hs
    · exact hs.raise rfl
  | readDisplay => cases h; exact hs

end Sys2Proof.Machine

section
open Sys2Proof Sys2Proof.Machine

/-- Settles O56: each transaction keeps the invariant. -/
theorem everyTransactionSequenceKeepsTheInvariant : Obligations.EveryTransactionSequenceKeepsTheInvariant :=
  fun _ _ _ _ hs h => transactAll_keeps (fun _ _ _ _ => State.Inv.transact) hs h

/-- Settles O53, by induction on the sequence: every transaction has a next state. -/
theorem everyTransactionSequenceRuns : Obligations.EveryTransactionSequenceRuns := transactAll_next

end

namespace Sys2Proof.Machine

/-! ### The equations of a step with no fault latched (R71, R234) -/

theorem step_of_no_fetch {s : State} (h0 : s.fault.code = .noFault) (hf : s.fetchWord = none) :
    step s = .next (s.raise .fetchOutOfBounds s.pc 0) := by
  simp [step, State.stepCycle, State.halted, h0, hf]

theorem step_of_decode_error {s : State} {w : Word} {e : DecodeError} (h0 : s.fault.code = .noFault)
    (hf : s.fetchWord = some w) (hd : decode w = .error e) :
    step s = .next (s.advancePc.raise .unimplementedOpcode s.pc w) := by
  simp [step, State.stepCycle, State.halted, h0, hf, State.runWord, hd]

theorem step_of_decode_ok {s : State} {w : Word} {i : Instr} (h0 : s.fault.code = .noFault)
    (hf : s.fetchWord = some w) (hd : decode w = .ok i) : step s = exec i s.advancePc := by
  simp [step, State.stepCycle, State.halted, h0, hf, State.runWord, hd]

/-! ### The hidden parts of the state: the stack, but for its live entries, and ST (R26, R27, R33) -/

/-- `s` with another stack and another ST. -/
def State.withHidden (s : State) (K : Vector Word 16) (b : Byte) : State := { s with stack := K, st := b }

/-- A stack with the entries of `s` below its depth. -/
def State.LiveIn (s : State) (K : Vector Word 16) : Prop := ∀ k : Fin 16, k.val < s.sp.val → K[k.val] = s.stack[k.val]

theorem State.sameButDeadStack_iff (s s' : State) :
    s.SameButDeadStack s' ↔ s' = s.withHidden s'.stack s.st ∧ s.LiveIn s'.stack := Iff.rfl

theorem State.raise_withHidden (s : State) (K : Vector Word 16) (b : Byte) (c : FaultCode) (p w : Word) :
    (s.withHidden K b).raise c p w = (s.raise c p w).withHidden K b := by
  show (if s.fault.code = .noFault then _ else _) = State.withHidden (if s.fault.code = .noFault then _ else _) K b
  split <;> rfl

theorem State.skipIf_withHidden (s : State) (K : Vector Word 16) (b : Byte) (p : Bool) :
    (s.withHidden K b).skipIf p = (s.skipIf p).withHidden K b := by
  cases p <;> rfl

theorem State.writeRun_withHidden (s : State) (K : Vector Word 16) (b : Byte) (addrs : List Addr) (bs : List Byte) :
    (s.withHidden K b).writeRun addrs bs = (s.writeRun addrs bs).withHidden K b := by
  induction addrs generalizing s bs with
  | nil => cases bs <;> rfl
  | cons a addrs ih =>
    cases bs with
    | nil => rfl
    | cons d bs => exact ih (s.writeByte a d) bs

theorem State.loadRegsFrom_withHidden (s : State) (K : Vector Word 16) (b : Byte) (i : Nat) (bs : List Byte) :
    (s.withHidden K b).loadRegsFrom i bs = (s.loadRegsFrom i bs).withHidden K b := by
  induction bs generalizing s i with
  | nil => rfl
  | cons d bs ih => exact ih (s.setV (Fin.ofNat 16 i) d) (i + 1)

/-- ST after an instruction, of the ST before it: only Fx18 writes it (R210). -/
def stAfter (i : Instr) (s : State) (b : Byte) : Byte :=
  match i with
  | .ldToST x => s.getV x
  | _ => b

/-- No instruction but 00EE and 2nnn reads or writes the stack, and none reads ST. -/
theorem exec_withHidden {i : Instr} {s t : State} (hret : i ≠ .ret) (hcall : ∀ nnn, i ≠ .call nnn)
    (h : exec i s = .next t) (K : Vector Word 16) (b : Byte) :
    exec i (s.withHidden K b) = .next (t.withHidden K (stAfter i s b)) := by
  cases i with
  | ret => exact absurd rfl hret
  | call nnn => exact absurd rfl (hcall nnn)
  | seImm _ _ | sneImm _ _ | seReg _ _ | sneReg _ _ =>
    cases h; exact congrArg Host.Outcome.next (State.skipIf_withHidden ..)
  | skp x =>
    have hk : (s.withHidden K b).keyOf x = s.keyOf x := rfl
    simp only [exec, execSkp, hk] at h ⊢
    split at h <;> cases h
    · exact congrArg Host.Outcome.next (State.skipIf_withHidden ..)
    · exact congrArg Host.Outcome.next (State.raise_withHidden ..)
  | sknp x =>
    have hk : (s.withHidden K b).keyOf x = s.keyOf x := rfl
    simp only [exec, execSknp, hk] at h ⊢
    split at h <;> cases h
    · exact congrArg Host.Outcome.next (State.skipIf_withHidden ..)
    · exact congrArg Host.Outcome.next (State.raise_withHidden ..)
  | drw x y n =>
    have ha : (s.withHidden K b).indexed n.val = s.indexed n.val := rfl
    simp only [exec, execDrw, ha, State.coordState_getV] at h ⊢
    split at h <;> cases h
    · rfl
    · exact congrArg Host.Outcome.next (State.raise_withHidden ..)
  | waitKey x =>
    have hk : (s.withHidden K b).firstKey = s.firstKey := rfl
    have hm : (s.withHidden K b).cfg = s.cfg := rfl
    simp only [exec, execWaitKey, hk, hm] at h ⊢
    split at h
    · cases h; rfl
    · split at h <;> cases h <;> rfl
  | storeBcd x =>
    have ha : (s.withHidden K b).indexed 3 = s.indexed 3 := rfl
    simp only [exec, execStoreBcd, ha] at h ⊢
    split at h <;> cases h
    · exact congrArg Host.Outcome.next (State.writeRun_withHidden ..)
    · exact congrArg Host.Outcome.next (State.raise_withHidden ..)
  | storeRegs x =>
    have ha : (s.withHidden K b).indexed (x.val + 1) = s.indexed (x.val + 1) := rfl
    simp only [exec, execStoreRegs, ha] at h ⊢
    split at h <;> cases h
    · exact congrArg Host.Outcome.next (State.writeRun_withHidden ..)
    · exact congrArg Host.Outcome.next (State.raise_withHidden ..)
  | loadRegs x =>
    have ha : (s.withHidden K b).indexed (x.val + 1) = s.indexed (x.val + 1) := rfl
    simp only [exec, execLoadRegs, ha] at h ⊢
    split at h <;> cases h
    · exact congrArg Host.Outcome.next (State.loadRegsFrom_withHidden ..)
    · exact congrArg Host.Outcome.next (State.raise_withHidden ..)
  | _ => cases h; rfl

/-- How the hidden parts K' and b' of a second run, at `t`, follow from those at `s`: the live entries agree, and a part that
is the same at `s` is the same at `t`. -/
structure HiddenFollows (s t : State) (K K' : Vector Word 16) (b b' : Byte) : Prop where
  live : t.LiveIn K'
  stack : K = s.stack → K' = t.stack
  st : b = s.st → b' = t.st

theorem HiddenFollows.of_kept {s t : State} {K : Vector Word 16} (hK : s.LiveIn K) (hsp : t.sp = s.sp)
    (hstack : t.stack = s.stack) (b : Byte) (hst : t.st = s.st) : HiddenFollows s t K K b b where
  live k hk := by rw [hstack]; exact hK k (hsp ▸ hk)
  stack h := h.trans hstack.symm
  st h := h.trans hst.symm

theorem HiddenFollows.raise {s : State} {K : Vector Word 16} (hK : s.LiveIn K) (b : Byte) (c : FaultCode) (p w : Word) :
    HiddenFollows s (s.raise c p w) K K b b :=
  .of_kept hK (State.raise_sp ..) (State.raise_stack ..) b (State.raise_st ..)

theorem execRet_follows {s t : State} {K : Vector Word 16} (hK : s.LiveIn K) (h : execRet s = .next t) (b : Byte) :
    ∃ K' b', execRet (s.withHidden K b) = .next (t.withHidden K' b') ∧ HiddenFollows s t K K' b b' := by
  refine ⟨K, b, ?_⟩
  have hsp : (s.withHidden K b).sp = s.sp := rfl
  by_cases hpos : 0 < s.sp.val
  · have hlt := s.sp.isLt
    have htop : K[s.sp.val - 1] = s.stack[s.sp.val - 1] := hK ⟨s.sp.val - 1, by omega⟩ (by simp only; omega)
    simp only [execRet, State.pop, hsp, hpos, dif_pos] at h ⊢
    cases h
    refine ⟨by rw [← htop]; rfl, fun k hk => hK k ?_, id, id⟩
    have : k.val < s.sp.val - 1 := hk
    omega
  · simp only [execRet, State.pop, hsp, hpos, dif_neg, not_false_eq_true] at h ⊢
    cases h
    exact ⟨congrArg Host.Outcome.next (State.raise_withHidden ..), .raise hK ..⟩

theorem execCall_follows {nnn : BitVec 12} {s t : State} {K : Vector Word 16} (hK : s.LiveIn K)
    (h : execCall nnn s = .next t) (b : Byte) :
    ∃ K' b', execCall nnn (s.withHidden K b) = .next (t.withHidden K' b') ∧ HiddenFollows s t K K' b b' := by
  have hsp : (s.withHidden K b).sp = s.sp := rfl
  by_cases hroom : s.sp.val < 16
  · refine ⟨K.set s.sp.val s.pc, b, ?_⟩
    simp only [execCall, State.push, hsp, hroom, dif_pos] at h ⊢
    cases h
    refine ⟨rfl, fun k hk => ?_, fun he => by rw [he]; rfl, id⟩
    have hk' : k.val < s.sp.val + 1 := hk
    simp only [State.setPc_stack, Vector.getElem_set]
    split
    · rfl
    · exact hK k (by omega)
  · refine ⟨K, b, ?_⟩
    simp only [execCall, State.push, hsp, hroom, dif_neg, not_false_eq_true] at h ⊢
    cases h
    exact ⟨congrArg Host.Outcome.next (State.raise_withHidden ..), .raise hK ..⟩

theorem exec_follows {i : Instr} {s t : State} {K : Vector Word 16} (hK : s.LiveIn K) (h : exec i s = .next t) (b : Byte) :
    ∃ K' b', exec i (s.withHidden K b) = .next (t.withHidden K' b') ∧ HiddenFollows s t K K' b b' := by
  by_cases hret : i = .ret
  · subst hret; exact execRet_follows hK h b
  by_cases hcall : ∃ nnn, i = .call nnn
  · obtain ⟨nnn, rfl⟩ := hcall; exact execCall_follows hK h b
  have hcall' : ∀ nnn, i ≠ .call nnn := fun nnn he => hcall ⟨nnn, he⟩
  -- the run beside itself: its own stack and ST are the hidden parts it leaves
  have hself : t = t.withHidden s.stack (stAfter i s s.st) := by
    have := exec_withHidden hret hcall' h s.stack s.st
    exact Host.Outcome.next.inj (h.symm.trans this)
  have hstack : t.stack = s.stack := by rw [hself]; rfl
  have hst : t.st = stAfter i s s.st := by rw [hself]; rfl
  have hsp : t.sp = s.sp := by
    rcases exec_ends h with ⟨-, rfl⟩ | ⟨-, he⟩
    · exact State.raiseExec_sp ..
    · exact he.sp_eq.resolve_right (not_or_intro hret hcall)
  refine ⟨K, stAfter i s b, exec_withHidden hret hcall' h K b, fun k hk => ?_, fun he => he.trans hstack.symm, fun he => ?_⟩
  · rw [hstack]; exact hK k (hsp ▸ hk)
  · rw [hst, he]

theorem step_follows {s t : State} {K : Vector Word 16} (hK : s.LiveIn K) (h : step s = .next t) (b : Byte) :
    ∃ K' b', step (s.withHidden K b) = .next (t.withHidden K' b') ∧ HiddenFollows s t K K' b b' := by
  by_cases h0 : s.fault.code = .noFault
  · have h0' : (s.withHidden K b).fault.code = .noFault := h0
    cases hf : s.fetchWord with
    | none =>
      have hf' : (s.withHidden K b).fetchWord = none := hf
      rw [step_of_no_fetch h0 hf] at h
      cases h
      exact ⟨K, b, by rw [step_of_no_fetch h0' hf', State.raise_withHidden]; rfl, .raise hK ..⟩
    | some w =>
      have hf' : (s.withHidden K b).fetchWord = some w := hf
      cases hd : decode w with
      | error e =>
        rw [step_of_decode_error h0 hf hd] at h
        cases h
        have hadv : (s.withHidden K b).advancePc = s.advancePc.withHidden K b := rfl
        refine ⟨K, b, by rw [step_of_decode_error h0' hf' hd, hadv, State.raise_withHidden]; rfl, ?_⟩
        exact .of_kept (t := s.advancePc.raise ..) hK (State.raise_sp ..) (State.raise_stack ..) b (State.raise_st ..)
      | ok i =>
        rw [step_of_decode_ok h0 hf hd] at h
        have hK' : s.advancePc.LiveIn K := hK
        obtain ⟨K', b', he, hl, hstack, hst⟩ := exec_follows hK' h b
        exact ⟨K', b', (step_of_decode_ok h0' hf' hd).trans he, hl, hstack, hst⟩
  · rw [step_of_faulted h0] at h
    cases h
    have h0' : (s.withHidden K b).fault.code ≠ .noFault := h0
    exact ⟨K, b, step_of_faulted h0', .of_kept hK rfl rfl b rfl⟩

/-- A load does not touch the hidden parts. -/
theorem State.load_follows {s : State} {K : Vector Word 16} (hK : s.LiveIn K) (b : Byte) (bs : List Byte) :
    (s.withHidden K b).load bs = (s.load bs).withHidden K b ∧ HiddenFollows s (s.load bs) K K b b := by
  unfold State.load
  split
  · exact ⟨State.raise_withHidden .., .raise hK ..⟩
  · exact ⟨State.writeRun_withHidden .., .of_kept hK (State.writeRun_sp ..) (State.writeRun_stack ..) b (State.writeRun_st ..)⟩

theorem State.setKey_follows {s : State} {K : Vector Word 16} (hK : s.LiveIn K) (b : Byte) (k : Nat) (p : Bool) :
    (s.withHidden K b).setKey k p = (s.setKey k p).withHidden K b ∧ HiddenFollows s (s.setKey k p) K K b b := by
  unfold State.setKey
  split
  · exact ⟨rfl, .of_kept (t := s.setKeyFlag _ p) hK rfl rfl b rfl⟩
  · exact ⟨State.raise_withHidden .., .raise hK ..⟩

/-- With the same ST, a transaction answers the same output, the same ST and the same live entries. -/
theorem transact_withDeadStack {tr : Transaction} {s t : State} {o : Output} {K : Vector Word 16} (hK : s.LiveIn K)
    (h : transact tr s = .next (t, o)) :
    ∃ K', transact tr (s.withHidden K s.st) = .next (t.withHidden K' t.st, o) ∧ t.LiveIn K' := by
  cases tr with
  | reset => cases h; exact ⟨_, rfl, fun _ _ => rfl⟩
  | load bs =>
    cases h
    obtain ⟨he, hl, -, hst⟩ := State.load_follows hK s.st bs
    exact ⟨K, by rw [transact, he, ← hst rfl], hl⟩
  | step r =>
    obtain ⟨u, hu, rfl, rfl⟩ := step_of_transact_step h
    have hK' : (s.offerRandom r).LiveIn K := hK
    obtain ⟨K', b', he, hl, -, hst⟩ := step_follows hK' hu s.st
    obtain rfl : b' = u.st := hst rfl
    exact ⟨K', transact_step_of_step (s := s.withHidden K s.st) he, hl⟩
  | tick => cases h; exact ⟨K, rfl, hK⟩
  | setKey k p =>
    cases h
    obtain ⟨he, hl, -, hst⟩ := State.setKey_follows hK s.st k p
    exact ⟨K, by rw [transact, he, ← hst rfl], hl⟩
  | readDisplay => cases h; exact ⟨K, rfl, hK⟩

theorem transactAll_withDeadStack {ts : List Transaction} {s t : State} {os : List Output} {K : Vector Word 16}
    (hK : s.LiveIn K) (h : transactAll ts s = .next (t, os)) :
    ∃ K', transactAll ts (s.withHidden K s.st) = .next (t.withHidden K' t.st, os) ∧ t.LiveIn K' := by
  induction ts generalizing s os K with
  | nil => cases h; exact ⟨K, rfl, hK⟩
  | cons tr ts ih =>
    obtain ⟨u, o, os', hu, ht, rfl⟩ := transactAll_cons_inv h
    obtain ⟨K₁, hu', hK₁⟩ := transact_withDeadStack hK hu
    obtain ⟨K₂, ht', hK₂⟩ := ih hK₁ ht
    exact ⟨K₂, transactAll_cons hu' ht', hK₂⟩

/-! ### Power-on (R37) -/

/-- With no byte listed, memory reads as reset leaves it. -/
theorem State.readByte_of_mem_nil {s : State} (h : s.mem = []) (a : Addr) :
    s.readByte a = if h : a.val < 80 then s.cfg.font[a.val] else 0 := by
  rw [State.readByte, h]; rfl

end Sys2Proof.Machine

section
open Sys2Proof Sys2Proof.Machine

/-- Settles O57, by the simulation of a run by one with another dead part of the stack. -/
theorem poppedStackEntriesCannotBeSeen : Obligations.PoppedStackEntriesCannotBeSeen := by
  intro ts s s' t os hss h
  obtain ⟨hs', hK⟩ := (s.sameButDeadStack_iff s').mp hss
  obtain ⟨K', h', hK'⟩ := transactAll_withDeadStack hK h
  exact ⟨t.withHidden K' t.st, hs' ▸ h', rfl, hK'⟩

/-- Settles O58: a step with the same stack and another ST. -/
theorem noInstructionReadsTheSoundTimer : Obligations.NoInstructionReadsTheSoundTimer := by
  intro s t b h
  obtain ⟨K', b', h', -, hstack, -⟩ := step_follows (K := s.stack) (fun _ _ => rfl) h b
  obtain rfl : K' = t.stack := hstack rfl
  exact ⟨b', h'⟩

/-- Settles O39: each element of R37 by its definition. -/
theorem powerOnState : Obligations.PowerOnState := by
  refine ⟨fun r => ?_, rfl, rfl, rfl, fun k => ?_, rfl, rfl, fun k => ?_, Framebuffer.cell_blank,
    State.readByte_of_mem_nil rfl, rfl, rfl, rfl, fun s hc hq hd => ?_⟩
  · exact Vector.getElem_replicate ..
  · exact Vector.getElem_replicate ..
  · exact Vector.getElem_replicate ..
  · show Host.Outcome.next (State.resetWith s.cfg s.rngQueue s.rngDraws, Output.none) = _
    rw [hc, hq, hd]; rfl

/-- Settles O42: the step transaction is a step, which always has a next state. -/
theorem stepTransactionRunsOneStep : Obligations.StepTransactionRunsOneStep := by
  intro s r
  obtain ⟨t, h⟩ := step_next (s.offerRandom r)
  exact ⟨t, h, transact_step_of_step h⟩

end

/-! SUPPORT. The memory family (spec/20_memory.md): the frame of memory, the bytes Fx55 leaves where the next fetch may
look for them, and the instruction a placed word is. -/

namespace Sys2Proof

/-! ### A word made of an instruction, and of its bytes (R51, R72, R73, R76) -/

/-- The function code and group of an instruction's format select its own row, and the fields are its operands. -/
theorem decode_encode (i : Instr) : decode (encode i) = .ok i := by
  cases i with
  | nop | cls | ret => rfl
  | jp _ | call _ | ldI _ | jpV0 _ =>
    simp only [encode, decode, fieldG_formatA, fieldNNN_formatA]
    rfl
  | seImm _ _ | sneImm _ _ | ldImm _ _ | addImm _ _ | rnd _ _ =>
    simp only [encode, decode, fieldG_formatXK, fieldX_formatXK, fieldNN_formatXK]
    rfl
  | skp _ | sknp _ =>
    simp only [encode, decode, decodeGroupE, fieldG_formatXK, fieldX_formatXK, fieldNN_formatXK]
    rfl
  | ldFromDT _ | ldToDT _ | ldToST _ | addI _ | waitKey _ | ldGlyph _ | storeBcd _ | storeRegs _ | loadRegs _ =>
    simp only [encode, decode, decodeGroupF, fieldG_formatXK, fieldX_formatXK, fieldNN_formatXK]
    rfl
  | seReg _ _ | sneReg _ _ =>
    simp only [encode, decode, decodeXY0, fieldG_formatXYN, fieldX_formatXYN, fieldY_formatXYN, fieldN_formatXYN]
    rfl
  | ldReg _ _ | orReg _ _ | andReg _ _ | xorReg _ _ | addReg _ _ | subReg _ _ | shr _ _ | subn _ _ | shl _ _ =>
    simp only [encode, decode, decodeGroup8, fieldG_formatXYN, fieldX_formatXYN, fieldY_formatXYN, fieldN_formatXYN]
    rfl
  | drw _ _ _ =>
    simp only [encode, decode, fieldG_formatXYN, fieldX_formatXYN, fieldY_formatXYN, fieldN_formatXYN]
    rfl

theorem wordOfBytes_eq_ofNat (hi lo : Byte) : wordOfBytes hi lo = BitVec.ofNat 16 (256 * hi.toNat + lo.toNat) := by
  rw [← wordOfBytes_toNat, BitVec.ofNat_toNat, BitVec.setWidth_eq]

end Sys2Proof

namespace Sys2Proof.Machine

/-! ### The frame of memory, and the bytes of a run of writes (R53) -/

theorem Effect.readByte_eq {i : Instr} {s t : State} (h : Effect i s t) {a : Addr} (ha : a ∉ storedAddrs i s) :
    t.readByte a = s.readByte a := by
  cases h with
  | store => exact State.readByte_writeRun_outside _ _ _ ha
  | _ => rfl

/-- Each byte of a run of writes to distinct addresses is at the address beside it. -/
theorem State.readByte_writeRun_getElem (s : State) {addrs : List Addr} {bs : List Byte} (hn : addrs.Nodup)
    (hl : bs.length = addrs.length) {k : Nat} (hk : k < addrs.length) :
    (s.writeRun addrs bs).readByte addrs[k] = bs[k] := by
  have hrun := s.readRun_writeRun hn hl
  rw [← List.getElem_of_eq hrun (by simpa [State.readRun] using hk)]
  exact (List.getElem_map _).symm

/-! ### Fx55 (R176) -/

theorem exec_storeRegs {x : Reg} {s : State} (h : s.Accessible (x.val + 1)) :
    exec (.storeRegs x) s = .next (s.writeRun ((List.range (x.val + 1)).map s.indexedAddr) (s.regsUpTo x)) := by
  simp only [exec, execStoreRegs, State.indexed_of_accessible (.inr h)]

theorem State.length_regsUpTo (s : State) (x : Reg) : (s.regsUpTo x).length = x.val + 1 := by
  have := x.isLt
  simp only [State.regsUpTo, List.length_take, Vector.length_toList]
  omega

theorem State.getElem_regsUpTo (s : State) {x r : Reg} (hr : r.val < (s.regsUpTo x).length) :
    (s.regsUpTo x)[r.val] = s.getV r := by
  simp [State.regsUpTo, State.getV]

theorem readByte_of_exec_storeRegs {x : Reg} {s t : State} (h : s.Accessible (x.val + 1))
    (ht : exec (.storeRegs x) s = .next t) {r : Reg} (hr : r.val ≤ x.val) : t.readByte (s.indexedAddr r.val) = s.getV r := by
  have hx := x.isLt
  rw [exec_storeRegs h] at ht
  cases ht
  have hn := State.indexed_nodup (by omega) (State.indexed_of_accessible (.inr h))
  have hk : r.val < ((List.range (x.val + 1)).map s.indexedAddr).length := by simp; omega
  have hb := s.readByte_writeRun_getElem hn (bs := s.regsUpTo x) (by simp [State.length_regsUpTo]) hk
  rwa [State.getElem_regsUpTo, List.getElem_map, List.getElem_range] at hb

/-! ### Placing a word (log entry 7) -/

theorem State.readyToFetch_of_ready {s : State} (h0 : s.fault.code = .noFault) (hpc : s.pc.toNat + 1 ≤ 4095) :
    s.readyToFetch = s := by
  simp only [State.readyToFetch, h0, hpc, if_true]

theorem State.placeWord_eq (s : State) (w : Word) : s.placeWord w = { s with mem := (s.placeWord w).mem } := by
  unfold State.placeWord
  split <;> rfl

/-- Where a step fetches, the step after the word of an instruction has been placed is that instruction. -/
theorem step_placeWord_encode {s : State} (h0 : s.fault.code = .noFault) (hpc : s.pc.toNat + 1 ≤ 4095) (i : Instr) :
    step (s.placeWord (encode i)) = exec i (s.placeWord (encode i)).advancePc :=
  step_of_decode_ok (by rw [State.placeWord_eq]; exact h0) (s.fetchWord_placeWord _ hpc) (decode_encode i)

end Sys2Proof.Machine

section
open Sys2Proof Sys2Proof.Machine

/-- Settles O44: a raised fault changes no byte, and an effect only those stored. -/
theorem onlyStoredBytesChange : Obligations.OnlyStoredBytesChange := by
  intro i s t h a ha
  rcases exec_ends h with ⟨-, rfl⟩ | ⟨-, he⟩
  · exact State.readByte_congr (State.raiseExec_mem ..) (State.raiseExec_cfg ..) a
  · exact he.readByte_eq ha

/-- Settles O28: the fetch reads the bytes that Fx55 left at I and I + 1. -/
theorem storedBytesAreFetchedAsTheNextWord : Obligations.StoredBytesAreFetchedAsTheNextWord := by
  intro x s hx hI hpc
  have hacc : s.Accessible (x.val + 1) := .inr (by omega)
  refine ⟨_, exec_storeRegs hacc, ?_⟩
  have hhigh := readByte_of_exec_storeRegs (r := 0) hacc (exec_storeRegs hacc) (Nat.zero_le _)
  have hlow := readByte_of_exec_storeRegs (r := 1) hacc (exec_storeRegs hacc) hx
  rw [State.fetchWord_eq _ (a := s.indexedAddr (0 : Reg).val) (b := s.indexedAddr (1 : Reg).val), hhigh, hlow,
    wordOfBytes_eq_ofNat] <;> rw [State.writeRun_pc, ← hpc, State.indexedAddr]
  · exact Nat.mod_eq_of_lt (by simp only [Fin.val_zero]; omega)
  · exact Nat.mod_eq_of_lt (by simp only [Fin.val_one]; omega)

/-- Settles O60: the placed word is fetched and decodes to its instruction. -/
theorem placedInstructionRunsNext : Obligations.PlacedInstructionRunsNext := by
  intro s i
  obtain ⟨h0, hpc⟩ := s.readyToFetch_ready
  simp only [State.withFetchWord, tableWord_toNat]
  refine ⟨_, step_placeWord_encode h0 hpc i, rfl, rfl, fun h0 hpc => ?_⟩
  rw [State.readyToFetch_of_ready h0 hpc]
  exact s.placeWord_eq _

end

/-! SUPPORT. The encoding family (spec/30_encoding.md): what decoding a word can answer, and the one row that a word
selects. -/

namespace Sys2Proof

/-! ### What decoding answers (R76, R77, R80) -/

/-- The answers that lose no bit of the word: an instruction whose encoding is the word, or the refusal that names it. -/
inductive AnswersFor (w : Word) : Except DecodeError Instr → Prop
  | ok {i : Instr} (h : encode i = w) : AnswersFor w (.ok i)
  | refused : AnswersFor w (.error (.unimplementedOpcode w))

theorem formatA_of_fields {w : Word} {g : BitVec 4} {nnn : BitVec 12} (hg : fieldG w = g) (hn : fieldNNN w = nnn) :
    formatA g nnn = w := by
  subst hg hn; exact formatA_fields w

theorem formatXK_of_fields {w : Word} {g : BitVec 4} {nn : Byte} (hg : fieldG w = g) (hn : fieldNN w = nn) :
    formatXK g (fieldX w) nn = w := by
  subst hg hn; exact formatXK_fields w

theorem formatXYN_of_fields {w : Word} {g n : BitVec 4} (hg : fieldG w = g) (hn : fieldN w = n) :
    formatXYN g (fieldX w) (fieldY w) n = w := by
  subst hg hn; exact formatXYN_fields w

theorem decodeGroup0_answers {w : Word} (hg : fieldG w = 0x0) : AnswersFor w (decodeGroup0 w) := by
  unfold decodeGroup0
  split
  case h_4 => exact .refused
  all_goals next hn => exact .ok (formatA_of_fields hg hn)

theorem decodeGroup8_answers {w : Word} (hg : fieldG w = 0x8) : AnswersFor w (decodeGroup8 w) := by
  unfold decodeGroup8
  split
  case h_10 => exact .refused
  all_goals next hn => exact .ok (formatXYN_of_fields hg hn)

theorem decodeGroupE_answers {w : Word} (hg : fieldG w = 0xE) : AnswersFor w (decodeGroupE w) := by
  unfold decodeGroupE
  split
  case h_3 => exact .refused
  all_goals next hn => exact .ok (formatXK_of_fields hg hn)

theorem decodeGroupF_answers {w : Word} (hg : fieldG w = 0xF) : AnswersFor w (decodeGroupF w) := by
  unfold decodeGroupF
  split
  case h_10 => exact .refused
  all_goals next hn => exact .ok (formatXK_of_fields hg hn)

theorem decodeXY0_answers {w : Word} {g : BitVec 4} {mk : Reg → Reg → Instr} (hg : fieldG w = g)
    (hmk : ∀ x y, encode (mk x y) = formatXYN g x y 0x0) : AnswersFor w (decodeXY0 w mk) := by
  unfold decodeXY0
  split
  · next hn => exact .ok ((hmk ..).trans (formatXYN_of_fields hg hn))
  · exact .refused

theorem decode_answers (w : Word) : AnswersFor w (decode w) := by
  unfold decode
  split
  case h_1 hg => exact decodeGroup0_answers hg
  case h_6 hg | h_10 hg => exact decodeXY0_answers hg fun _ _ => rfl
  case h_9 hg => exact decodeGroup8_answers hg
  case h_15 hg => exact decodeGroupE_answers hg
  case h_14 hg => exact .ok (formatXYN_of_fields hg rfl)
  case h_2 hg | h_3 hg | h_11 hg | h_12 hg => exact .ok (formatA_of_fields hg rfl)
  case h_4 hg | h_5 hg | h_7 hg | h_8 hg | h_13 hg => exact .ok (formatXK_of_fields hg rfl)
  case h_16 =>
    refine decodeGroupF_answers ?_
    generalize fieldG w = g at *
    decide +revert

theorem encode_of_decode_ok {w : Word} {i : Instr} (h : decode w = .ok i) : encode i = w := by
  have := decode_answers w
  rw [h] at this
  cases this with
  | ok hi => exact hi

theorem eq_unimplementedOpcode_of_decode_error {w : Word} {e : DecodeError} (h : decode w = .error e) :
    e = .unimplementedOpcode w := by
  have := decode_answers w
  rw [h] at this
  cases this
  rfl

/-! ### The row a word selects (R76, R77) -/

open Laws in
/-- The word of every instruction selects the row of its mnemonic. -/
theorem encodesItsRow (i : Instr) : EncodesItsRow.Statement i := by
  cases i with
  | nop => exact EncodesItsRow.nop
  | cls => exact EncodesItsRow.cls
  | ret => exact EncodesItsRow.ret
  | jp nnn => exact EncodesItsRow.jp nnn
  | call nnn => exact EncodesItsRow.call nnn
  | seImm x nn => exact EncodesItsRow.seImm x nn
  | sneImm x nn => exact EncodesItsRow.sneImm x nn
  | seReg x y => exact EncodesItsRow.seReg x y
  | ldImm x nn => exact EncodesItsRow.ldImm x nn
  | addImm x nn => exact EncodesItsRow.addImm x nn
  | ldReg x y => exact EncodesItsRow.ldReg x y
  | orReg x y => exact EncodesItsRow.orReg x y
  | andReg x y => exact EncodesItsRow.andReg x y
  | xorReg x y => exact EncodesItsRow.xorReg x y
  | addReg x y => exact EncodesItsRow.addReg x y
  | subReg x y => exact EncodesItsRow.subReg x y
  | shr x y => exact EncodesItsRow.shr x y
  | subn x y => exact EncodesItsRow.subn x y
  | shl x y => exact EncodesItsRow.shl x y
  | sneReg x y => exact EncodesItsRow.sneReg x y
  | ldI nnn => exact EncodesItsRow.ldI nnn
  | jpV0 nnn => exact EncodesItsRow.jpV0 nnn
  | rnd x nn => exact EncodesItsRow.rnd x nn
  | drw x y n => exact EncodesItsRow.drw x y n
  | skp x => exact EncodesItsRow.skp x
  | sknp x => exact EncodesItsRow.sknp x
  | ldFromDT x => exact EncodesItsRow.ldFromDT x
  | ldToDT x => exact EncodesItsRow.ldToDT x
  | ldToST x => exact EncodesItsRow.ldToST x
  | addI x => exact EncodesItsRow.addI x
  | waitKey x => exact EncodesItsRow.waitKey x
  | ldGlyph x => exact EncodesItsRow.ldGlyph x
  | storeBcd x => exact EncodesItsRow.storeBcd x
  | storeRegs x => exact EncodesItsRow.storeRegs x
  | loadRegs x => exact EncodesItsRow.loadRegs x

theorem exists_row_of_decode_ok {w : Word} {i : Instr} (h : decode w = .ok i) :
    ∃ r ∈ opcodeTable, r.selects w = true ∧ r.mnemonic = i.mnemonic :=
  encode_of_decode_ok h ▸ encodesItsRow i

theorem decode_error_of_no_row {w : Word} (h : ∀ r ∈ opcodeTable, r.selects w = false) :
    decode w = .error (.unimplementedOpcode w) := by
  cases hd : decode w with
  | ok i =>
    obtain ⟨r, hr, hs, -⟩ := exists_row_of_decode_ok hd
    exact absurd hs (by simp [h r hr])
  | error e => rw [eq_unimplementedOpcode_of_decode_error hd]

/-- A word two rows select has both patterns under the mask common to them. -/
theorem OpcodeRow.patterns_agree_of_selects {r r' : OpcodeRow} {w : Word} (h : r.selects w = true)
    (h' : r'.selects w = true) : r.pattern &&& r'.mask = r'.pattern &&& r.mask := by
  have hw : w &&& r.mask = r.pattern := by simpa [OpcodeRow.selects] using h
  have hw' : w &&& r'.mask = r'.pattern := by simpa [OpcodeRow.selects] using h'
  rw [← hw, ← hw', BitVec.and_assoc, BitVec.and_assoc, BitVec.and_comm r.mask]

/-- Two rows of R76 differ in a bit that both masks keep. -/
theorem opcodeTable_disjoint : ∀ r ∈ opcodeTable, ∀ r' ∈ opcodeTable,
    r.pattern &&& r'.mask = r'.pattern &&& r.mask → r = r' := by decide

end Sys2Proof

section
open Sys2Proof Sys2Proof.Machine

/-- Settles O4: the word a decoded instruction encodes to selects its row, a selected word decodes, and two rows differ in
a bit of both masks. -/
theorem decodeGivesTheOneRowTheWordSelects : Obligations.DecodeGivesTheOneRowTheWordSelects := by
  refine ⟨fun w i => exists_row_of_decode_ok, fun w => decode_error_of_no_row, ?_, ?_⟩
  · rintro w ⟨r, hr, hs⟩
    exact decode_ok_of_selects hr hs
  · intro w r r' hr hr' hs hs'
    exact opcodeTable_disjoint r hr r' hr' (OpcodeRow.patterns_agree_of_selects hs hs')

end

/-! SUPPORT. The control-flow family (spec/40_control_flow.md): what each jump, call and return answers, by the depth of the
stack. -/

namespace Sys2Proof

theorem decode_of_encode {w : Word} {i : Instr} (h : encode i = w) : decode w = .ok i := h ▸ decode_encode i

end Sys2Proof

namespace Sys2Proof.Machine

/-! ### Jumps (R103, R105) -/

theorem exec_jp (nnn : BitVec 12) (s : State) : exec (.jp nnn) s = .next { s with pc := zextAddr nnn } := rfl

theorem exec_jpV0 (nnn : BitVec 12) (s : State) :
    exec (.jpV0 nnn) s = .next { s with pc := zextAddr nnn + zext16 (s.getV 0) } := rfl

theorem zextAddr_toNat (nnn : BitVec 12) : (zextAddr nnn).toNat = nnn.toNat :=
  BitVec.toNat_setWidth_of_le (by decide)

/-- The sum has no carry out of 16 bits: it is at most 0x10FE (R105). -/
theorem zextAddr_add_zext16_toNat (nnn : BitVec 12) (b : Byte) :
    (zextAddr nnn + zext16 b).toNat = nnn.toNat + b.toNat := by
  have hn := nnn.isLt
  have hb := b.isLt
  rw [BitVec.toNat_add, zextAddr_toNat, BitVec.toNat_setWidth_of_le (by decide)]
  omega

/-! ### Return (R102) -/

theorem exec_ret_of_depth_succ {s : State} {d : Fin 16} (h : s.sp.val = d.val + 1) :
    exec .ret s = .next { s with pc := s.stack[d.val], sp := d.castSucc } := by
  have hsp : s.sp = d.succ := Fin.ext h
  simp only [exec, execRet, State.pop, hsp]
  rfl

theorem exec_ret_of_empty {s : State} (h : s.sp.val = 0) :
    exec .ret s = .next (s.raiseExec .stackUnderflow .ret) := by
  simp only [exec, execRet, (State.pop_eq_none_iff s).mpr h]

/-! ### Call (R104) -/

theorem exec_call_of_room {s : State} {d : Fin 16} (h : s.sp.val = d.val) (nnn : BitVec 12) :
    exec (.call nnn) s =
      .next { s with pc := zextAddr nnn, sp := d.succ, stack := s.stack.set d.val s.pc } := by
  have hsp : s.sp = d.castSucc := Fin.ext h
  simp only [exec, execCall, State.push, hsp, Fin.val_castSucc, d.isLt, dif_pos]
  rfl

theorem exec_call_of_full {s : State} (h : s.sp.val = 16) (nnn : BitVec 12) :
    exec (.call nnn) s = .next (s.raiseExec .stackOverflow (.call nnn)) := by
  simp only [exec, execCall, (State.push_eq_none_iff s s.pc).mpr h]

end Sys2Proof.Machine

section
open Sys2Proof Sys2Proof.Machine

/-- Settles O10: 1nnn and Bnnn answer the state with their target in pc, and neither target wraps. -/
theorem nopAndJumpsSetPc : Obligations.NopAndJumpsSetPc :=
  ⟨decode_encode .nop, fun nnn s =>
    ⟨rfl, decode_of_encode (wordA_eq 0x1 nnn).symm, ⟨_, exec_jp nnn s, rfl, zextAddr_toNat nnn⟩,
      decode_of_encode (wordA_eq 0xB nnn).symm, _, exec_jpV0 nnn s, rfl, zextAddr_add_zext16_toNat nnn _⟩⟩

/-- Settles O11: the two depths a return tells apart, d + 1 and 0. -/
theorem returnPopsTheStack : Obligations.ReturnPopsTheStack := by
  refine ⟨decode_encode .ret, fun s d h => ?_, fun s h hsafe => ?_⟩
  · exact ⟨_, exec_ret_of_depth_succ h, rfl, rfl, rfl⟩
  · rw [exec_ret_of_empty h, State.raiseExec_of_safe hsafe]
    rfl

/-- Settles O12: the two depths a call tells apart, below 16 and 16. -/
theorem callPushesTheAdvancedPc : Obligations.CallPushesTheAdvancedPc := by
  intro nnn s
  have hw : encode (.call nnn) = wordA 0x2000 nnn := (wordA_eq 0x2 nnn).symm
  refine ⟨decode_of_encode hw, fun d h => ?_, fun h hsafe => ?_⟩
  · refine ⟨_, exec_call_of_room h nnn, rfl, zextAddr_toNat nnn, rfl, fun k => ?_⟩
    simp only [Vector.getElem_set, Fin.ext_iff, eq_comm]
  · rw [exec_call_of_full h, State.raiseExec_of_safe hsafe, hw]

/-- Settles O13: the call leaves depth d + 1 with the advanced pc on top, which the return pops; entries below d are not
written. -/
theorem callThenReturnComesBack : Obligations.CallThenReturnComesBack := by
  intro nnn s h
  have hcall := exec_call_of_room (s := s) (d := ⟨s.sp.val, h⟩) rfl nnn
  refine ⟨_, _, hcall, exec_ret_of_depth_succ (d := ⟨s.sp.val, h⟩) rfl, ?_, rfl, fun k hk => ?_⟩
  · exact Vector.getElem_set_self h
  · exact Vector.getElem_set_ne h k.isLt (Nat.ne_of_gt hk)

end

/-! SUPPORT. The skip family (spec/41_skips.md): what each skip answers, by the truth of its condition, and what the key
skips answer with no such key. -/

namespace Sys2Proof.Machine

/-- A skip on the negation of a condition: pc moves where the condition fails. -/
theorem State.skipIf_not (s : State) (b : Bool) :
    s.skipIf (!b) = { s with pc := if b then s.pc else s.pc + 2 } := by
  cases b <;> rfl

/-! ### The comparing skips (R121 to R124) -/

theorem exec_seImm (x : Reg) (nn : Byte) (s : State) :
    exec (.seImm x nn) s = .next { s with pc := if s.getV x = nn then s.pc + 2 else s.pc } := by
  simp only [exec, execSeImm, State.skipIf_eq, decide_eq_true_eq]

theorem exec_sneImm (x : Reg) (nn : Byte) (s : State) :
    exec (.sneImm x nn) s = .next { s with pc := if s.getV x = nn then s.pc else s.pc + 2 } := by
  simp only [exec, execSneImm, ne_eq, decide_not, State.skipIf_not, decide_eq_true_eq]

theorem exec_seReg (x y : Reg) (s : State) :
    exec (.seReg x y) s = .next { s with pc := if s.getV x = s.getV y then s.pc + 2 else s.pc } := by
  simp only [exec, execSeReg, State.skipIf_eq, decide_eq_true_eq]

theorem exec_sneReg (x y : Reg) (s : State) :
    exec (.sneReg x y) s = .next { s with pc := if s.getV x = s.getV y then s.pc else s.pc + 2 } := by
  simp only [exec, execSneReg, ne_eq, decide_not, State.skipIf_not, decide_eq_true_eq]

/-! ### The key skips (R125 to R127) -/

theorem State.keyOf_eq_some {s : State} {x : Reg} {k : Fin 16} (h : (s.getV x).toNat = k.val) :
    s.keyOf x = some s.keys[k.val] := by
  simp only [State.keyOf, h, k.isLt, dif_pos]

theorem exec_skp_of_key {s : State} {x : Reg} {k : Fin 16} (h : (s.getV x).toNat = k.val) :
    exec (.skp x) s = .next { s with pc := if s.keys[k.val] = true then s.pc + 2 else s.pc } := by
  simp only [exec, execSkp, State.keyOf_eq_some h, State.skipIf_eq]

theorem exec_sknp_of_key {s : State} {x : Reg} {k : Fin 16} (h : (s.getV x).toNat = k.val) :
    exec (.sknp x) s = .next { s with pc := if s.keys[k.val] = true then s.pc else s.pc + 2 } := by
  simp only [exec, execSknp, State.keyOf_eq_some h, State.skipIf_not]

theorem exec_skp_of_noKey {s : State} {x : Reg} (h : 16 ≤ (s.getV x).toNat) :
    exec (.skp x) s = .next (s.raiseExec .keyIndexOutOfRange (.skp x)) := by
  simp only [exec, execSkp, (s.keyOf_eq_none_iff x).mpr h]

theorem exec_sknp_of_noKey {s : State} {x : Reg} (h : 16 ≤ (s.getV x).toNat) :
    exec (.sknp x) s = .next (s.raiseExec .keyIndexOutOfRange (.sknp x)) := by
  simp only [exec, execSknp, (s.keyOf_eq_none_iff x).mpr h]

end Sys2Proof.Machine

section
open Sys2Proof Sys2Proof.Machine

/-- Settles O14: each word decodes to its skip, which moves pc by its condition alone. -/
theorem comparingSkipsAddTwoWhenTheirConditionHolds : Obligations.ComparingSkipsAddTwoWhenTheirConditionHolds :=
  fun x y nn s =>
    ⟨⟨decode_of_encode (wordXK_eq 0x3 x nn).symm, exec_seImm x nn s⟩,
      ⟨decode_of_encode (wordXK_eq 0x4 x nn).symm, exec_sneImm x nn s⟩,
      ⟨decode_of_encode (wordXY_eq 0x5 0x0 x y).symm, exec_seReg x y s⟩,
      decode_of_encode (wordXY_eq 0x9 0x0 x y).symm, exec_sneReg x y s⟩

/-- Settles O15: the two ranges of V[x] that a key skip tells apart, below 16 and from 16 on. -/
theorem keySkipsTestTheKeyOrLatch : Obligations.KeySkipsTestTheKeyOrLatch := by
  intro x s
  have hskp : encode (.skp x) = wordX 0xE09E x := (wordX_eq 0xE 0x9E x).symm
  have hsknp : encode (.sknp x) = wordX 0xE0A1 x := (wordX_eq 0xE 0xA1 x).symm
  refine ⟨decode_of_encode hskp, decode_of_encode hsknp, fun k h => ?_, fun h hsafe => ?_⟩
  · exact ⟨exec_skp_of_key h, exec_sknp_of_key h⟩
  · rw [exec_skp_of_noKey h, exec_sknp_of_noKey h, State.raiseExec_of_safe hsafe, State.raiseExec_of_safe hsafe, hskp,
      hsknp]
    exact ⟨rfl, rfl⟩

end

/-! SUPPORT. The arithmetic family (spec/42_alu.md): the numbers the results and flags stand for, and the register each
instruction writes them to. -/

namespace Sys2Proof

/-! ### Results as numbers (R140, R149 to R152) -/

/-- R140: a difference of bytes wraps to the remainder of the exact difference. -/
theorem Byte.toNat_sub_eq_emod (a b : Byte) : ((a - b).toNat : Int) = ((a.toNat : Int) - b.toNat) % 256 := by
  have ha := a.isLt
  have hb := b.isLt
  rw [BitVec.toNat_sub]
  omega

theorem Byte.toNat_halved (a : Byte) : (a >>> 1).toNat = a.toNat / 2 := by
  rw [BitVec.toNat_ushiftRight, Nat.shiftRight_eq_div_pow, Nat.pow_one]

theorem Byte.toNat_doubled (a : Byte) : (a <<< 1).toNat = 2 * a.toNat % 256 := by
  rw [BitVec.toNat_shiftLeft, Nat.shiftLeft_eq, Nat.pow_one, Nat.mul_comm]

end Sys2Proof

namespace Sys2Proof.Machine

/-! ### Flags as numbers (R148 to R152) -/

theorem carryFlag_toNat (a b : Byte) : (carryFlag a b).toNat = if a.toNat + b.toNat > 255 then 1 else 0 :=
  apply_ite BitVec.toNat ..

theorem notBorrowFlag_toNat (a b : Byte) : (notBorrowFlag a b).toNat = if a.toNat < b.toNat then 0 else 1 :=
  apply_ite BitVec.toNat ..

theorem shiftedOutLow_toNat (a : Byte) : (shiftedOutLow a).toNat = a.toNat % 2 :=
  (BitVec.toNat_and ..).trans (Nat.and_one_is_mod _)

/-- Bit 7 is the only one left of 8 after a shift by 7, so the mask takes nothing more. -/
theorem shiftedOutHigh_toNat (a : Byte) : (shiftedOutHigh a).toNat = a.toNat / 128 := by
  have hbit : a.toNat / 128 < 2 := Nat.div_lt_of_lt_mul a.isLt
  calc (shiftedOutHigh a).toNat = a.toNat / 128 % 2 := by
        rw [shiftedOutHigh, BitVec.toNat_and, BitVec.toNat_ushiftRight, Nat.shiftRight_eq_div_pow]
        exact Nat.and_one_is_mod _
    _ = a.toNat / 128 := Nat.mod_eq_of_lt hbit

/-! ### Registers after a result, and after a result and a flag (R147) -/

theorem State.getV_setV_self (s : State) (r : Reg) (b : Byte) : (s.setV r b).getV r = b := by
  rw [State.getV_setV, if_pos rfl]

theorem State.getV_setV_of_ne (s : State) {r r' : Reg} (b : Byte) (h : r' ≠ r) : (s.setV r b).getV r' = s.getV r' := by
  rw [State.getV_setV, if_neg h]

theorem State.toNat_getV_setResultAndFlag (s : State) (r r' : Reg) (result flag : Byte) :
    ((s.setResultAndFlag r result flag).getV r').toNat =
      if r' = 15 then flag.toNat else if r' = r then result.toNat else (s.getV r').toNat := by
  rw [State.getV_setResultAndFlag, apply_ite BitVec.toNat, apply_ite BitVec.toNat]

/-- What SUB and SUBN share: a difference in register `d` and its not-borrow in VF (R149, R151). -/
theorem State.toNat_getV_setDifference (s : State) (d r : Reg) (a b : Byte) :
    (((s.setResultAndFlag d (a - b) (notBorrowFlag a b)).getV r).toNat : Int) =
      if r = 15 then (if a.toNat < b.toNat then 0 else 1)
      else if r = d then ((a.toNat : Int) - b.toNat) % 256 else (s.getV r).toNat := by
  simp only [State.toNat_getV_setResultAndFlag, notBorrowFlag_toNat, Nat.cast_ite, Byte.toNat_sub_eq_emod,
    Nat.cast_zero, Nat.cast_one]

/-! ### What each instruction answers (R141 to R155) -/

theorem exec_ldImm (x : Reg) (nn : Byte) (s : State) : exec (.ldImm x nn) s = .next (s.setV x nn) := rfl

theorem exec_addImm (x : Reg) (nn : Byte) (s : State) : exec (.addImm x nn) s = .next (s.setV x (s.getV x + nn)) := rfl

theorem exec_ldReg (x y : Reg) (s : State) : exec (.ldReg x y) s = .next (s.setV x (s.getV y)) := rfl

theorem exec_orReg (x y : Reg) (s : State) : exec (.orReg x y) s = .next (s.setV x (s.getV x ||| s.getV y)) := rfl

theorem exec_andReg (x y : Reg) (s : State) : exec (.andReg x y) s = .next (s.setV x (s.getV x &&& s.getV y)) := rfl

theorem exec_xorReg (x y : Reg) (s : State) : exec (.xorReg x y) s = .next (s.setV x (s.getV x ^^^ s.getV y)) := rfl

theorem exec_addReg (x y : Reg) (s : State) :
    exec (.addReg x y) s =
      .next (s.setResultAndFlag x (s.getV x + s.getV y) (carryFlag (s.getV x) (s.getV y))) := rfl

theorem exec_subReg (x y : Reg) (s : State) :
    exec (.subReg x y) s =
      .next (s.setResultAndFlag x (s.getV x - s.getV y) (notBorrowFlag (s.getV x) (s.getV y))) := rfl

theorem exec_subn (x y : Reg) (s : State) :
    exec (.subn x y) s =
      .next (s.setResultAndFlag y (s.getV y - s.getV x) (notBorrowFlag (s.getV y) (s.getV x))) := rfl

theorem exec_shr (x y : Reg) (s : State) :
    exec (.shr x y) s = .next (s.setResultAndFlag x (s.getV x >>> 1) (shiftedOutLow (s.getV x))) := rfl

theorem exec_shl (x y : Reg) (s : State) :
    exec (.shl x y) s = .next (s.setResultAndFlag x (s.getV x <<< 1) (shiftedOutHigh (s.getV x))) := rfl

theorem exec_rnd (x : Reg) (nn : Byte) (s : State) :
    exec (.rnd x nn) s = .next (s.drawTaken.setV x (s.nextRandom &&& nn)) := rfl

/-- A draw the host has fixed is the one taken (log entry 2). -/
theorem State.nextRandom_of_cons {s : State} {r : Byte} {rest : List Byte} (h : s.rngQueue = r :: rest) :
    s.nextRandom = r := by
  rw [State.nextRandom, h, List.headD_cons]

end Sys2Proof.Machine

section
open Sys2Proof Sys2Proof.Machine

/-- Settles O16: each of the three writes V[x] alone. -/
theorem loadAddImmediateAndCopy : Obligations.LoadAddImmediateAndCopy := by
  intro x y nn s
  refine ⟨⟨decode_of_encode (wordXK_eq 0x6 x nn).symm, _, exec_ldImm x nn s, rfl, fun r => s.getV_setV x r nn⟩,
    ⟨decode_of_encode (wordXK_eq 0x7 x nn).symm, _, exec_addImm x nn s, rfl, fun r => ?_⟩,
    decode_of_encode (wordXY_eq 0x8 0x0 x y).symm, _, exec_ldReg x y s, rfl, fun r => s.getV_setV x r _⟩
  rw [State.getV_setV, apply_ite BitVec.toNat, BitVec.toNat_add]

/-- Settles O17: each of the three writes V[x] alone, and bit k of the result is the operation on bits k. -/
theorem logicWorksBitByBit : Obligations.LogicWorksBitByBit := by
  intro x y s
  refine ⟨⟨decode_of_encode (wordXY_eq 0x8 0x1 x y).symm, _, exec_orReg x y s, rfl,
      fun r => s.getV_setV_of_ne _, fun k _ => ?_⟩,
    ⟨decode_of_encode (wordXY_eq 0x8 0x2 x y).symm, _, exec_andReg x y s, rfl,
      fun r => s.getV_setV_of_ne _, fun k _ => ?_⟩,
    decode_of_encode (wordXY_eq 0x8 0x3 x y).symm, _, exec_xorReg x y s, rfl,
      fun r => s.getV_setV_of_ne _, fun k _ => ?_⟩
  · rw [State.getV_setV_self, BitVec.getLsbD_or]
  · rw [State.getV_setV_self, BitVec.getLsbD_and]
  · rw [State.getV_setV_self, BitVec.getLsbD_xor]

/-- Settles O18: VF is written last, so it keeps the carry where x is F. -/
theorem addWithCarryOut : Obligations.AddWithCarryOut := by
  intro x y s
  refine ⟨decode_of_encode (wordXY_eq 0x8 0x4 x y).symm, _, exec_addReg x y s, rfl, fun r => ?_⟩
  rw [State.toNat_getV_setResultAndFlag, carryFlag_toNat, BitVec.toNat_add]

/-- Settles O19: the difference goes to V[x]. -/
theorem subtractWithNotBorrow : Obligations.SubtractWithNotBorrow := fun x y s =>
  ⟨decode_of_encode (wordXY_eq 0x8 0x5 x y).symm, _, exec_subReg x y s, rfl,
    fun r => s.toNat_getV_setDifference x r _ _⟩

/-- Settles O20: the difference goes to V[y], with the operands the other way round. -/
theorem reversedSubtractWritesVy : Obligations.ReversedSubtractWritesVy := fun x y s =>
  ⟨decode_of_encode (wordXY_eq 0x8 0x7 x y).symm, _, exec_subn x y s, rfl,
    fun r => s.toNat_getV_setDifference y r _ _⟩

/-- Settles O21: the number a shift leaves and the number of the bit it drops. -/
theorem shiftsPutTheDroppedBitInVF : Obligations.ShiftsPutTheDroppedBitInVF := by
  intro x y s
  refine ⟨⟨decode_of_encode (wordXY_eq 0x8 0x6 x y).symm, _, exec_shr x y s, rfl, fun r => ?_⟩,
    decode_of_encode (wordXY_eq 0x8 0xE x y).symm, _, exec_shl x y s, rfl, fun r => ?_⟩
  · rw [State.toNat_getV_setResultAndFlag, shiftedOutLow_toNat, Byte.toNat_halved]
  · rw [State.toNat_getV_setResultAndFlag, shiftedOutHigh_toNat, Byte.toNat_doubled]

/-- Settles O22: a fixed draw is the head of the queue; of a free one, the mask alone says which bits are clear. -/
theorem randomByteIsMaskedByTheImmediate : Obligations.RandomByteIsMaskedByTheImmediate := by
  intro x nn s
  refine ⟨decode_of_encode (wordXK_eq 0xC x nn).symm, fun r rest hq => ?_, ?_⟩
  · obtain rfl : s.rngQueue.tail = rest := by rw [hq, List.tail_cons]
    refine ⟨_, exec_rnd x nn s, rfl, fun q => ?_⟩
    rw [State.getV_setV, State.nextRandom_of_cons hq]
    rfl
  · refine ⟨_, exec_rnd x nn s, rfl, fun q => s.drawTaken.getV_setV_of_ne _, fun k _ hk => ?_⟩
    rw [State.getV_setV_self, BitVec.getLsbD_and, hk, Bool.and_false]

end

/-! SUPPORT. The index and memory family (spec/43_index_memory.md): the values written to I, the bytes a run of writes from I
leaves, and the registers a run of loads fills. -/

namespace Sys2Proof.Machine

/-! ### The index register (R171 to R173) -/

theorem exec_ldI (nnn : BitVec 12) (s : State) : exec (.ldI nnn) s = .next (s.setI (zextAddr nnn)) := rfl

theorem exec_ldGlyph (x : Reg) (s : State) : exec (.ldGlyph x) s = .next (s.setI (zext16 (s.getV x) * 5)) := rfl

theorem exec_addI (x : Reg) (s : State) : exec (.addI x) s = .next (s.setI (s.I + zext16 (s.getV x))) := rfl

theorem zext16_toNat (b : Byte) : (zext16 b).toNat = b.toNat := BitVec.toNat_setWidth_of_le (by decide)

/-- Five times a byte has no carry out of 16 bits: it is at most 1275 (R172). -/
theorem zext16_mul_five_toNat (b : Byte) : (zext16 b * 5).toNat = b.toNat * 5 := by
  have hb := b.isLt
  rw [BitVec.toNat_mul, zext16_toNat, show (5 : Word).toNat = 5 from rfl]
  omega

/-! ### A run of writes from I (R53, R55) -/

theorem State.nodup_map_indexedAddr (s : State) {n : Nat} (hn : n ≤ 4096) : ((List.range n).map s.indexedAddr).Nodup :=
  List.Nodup.map_on (fun _ hi _ hj => s.indexedAddr_inj ((List.mem_range.mp hi).trans_le hn)
    ((List.mem_range.mp hj).trans_le hn)) List.nodup_range

theorem State.readByte_writeRun_indexedAddr (s : State) {n k : Nat} {bs : List Byte} (hl : bs.length = n) (hn : n ≤ 4096)
    (hk : k < n) :
    (s.writeRun ((List.range n).map s.indexedAddr) bs).readByte (s.indexedAddr k) = bs[k] := by
  have hb := s.readByte_writeRun_getElem (s.nodup_map_indexedAddr hn) (bs := bs) (by simpa using hl) (k := k)
    (by simpa using hk)
  rwa [List.getElem_map, List.getElem_range] at hb

theorem State.readByte_writeRun_of_ne_indexedAddr (s : State) {n : Nat} (bs : List Byte) {a : Addr}
    (ha : ∀ k < n, a ≠ s.indexedAddr k) :
    (s.writeRun ((List.range n).map s.indexedAddr) bs).readByte a = s.readByte a := by
  refine s.readByte_writeRun_outside _ _ fun hmem => ?_
  obtain ⟨k, hk, rfl⟩ := List.mem_map.mp hmem
  exact ha k (List.mem_range.mp hk) rfl

/-! ### What Fx33, Fx55 and Fx65 answer (R175 to R177) -/

theorem exec_storeBcd {x : Reg} {s : State} (h : s.Accessible 3) :
    exec (.storeBcd x) s = .next (s.writeRun ((List.range 3).map s.indexedAddr) (bcdDigits (s.getV x))) := by
  simp only [exec, execStoreBcd, State.indexed_of_accessible (.inr h)]

theorem exec_loadRegs {x : Reg} {s : State} (h : s.Accessible (x.val + 1)) :
    exec (.loadRegs x) s = .next (s.loadRegsFrom 0 (s.readRun ((List.range (x.val + 1)).map s.indexedAddr))) := by
  simp only [exec, execLoadRegs, State.indexed_of_accessible (.inr h)]

theorem exec_storeBcd_of_not_accessible {x : Reg} {s : State} (h : ¬ s.Accessible 3) :
    exec (.storeBcd x) s = .next (s.raiseExec .memOutOfBounds (.storeBcd x)) := by
  simp only [exec, execStoreBcd, State.indexed_of_not_accessible h]

theorem exec_storeRegs_of_not_accessible {x : Reg} {s : State} (h : ¬ s.Accessible (x.val + 1)) :
    exec (.storeRegs x) s = .next (s.raiseExec .memOutOfBounds (.storeRegs x)) := by
  simp only [exec, execStoreRegs, State.indexed_of_not_accessible h]

theorem exec_loadRegs_of_not_accessible {x : Reg} {s : State} (h : ¬ s.Accessible (x.val + 1)) :
    exec (.loadRegs x) s = .next (s.raiseExec .memOutOfBounds (.loadRegs x)) := by
  simp only [exec, execLoadRegs, State.indexed_of_not_accessible h]

/-! ### The digits of Fx33 (R175) -/

theorem byteOfNat_toNat {n : Nat} (h : n < 256) : (byteOfNat n).toNat = n :=
  (BitVec.toNat_ofNat ..).trans (Nat.mod_eq_of_lt h)

/-! ### The registers that Fx65 fills (R177) -/

/-- A run of register writes that does not pass VF leaves the registers below it alone. -/
theorem State.getV_loadRegsFrom_below (s : State) {i : Nat} {bs : List Byte} (hl : i + bs.length ≤ 16) {r : Reg}
    (hr : r.val < i) : (s.loadRegsFrom i bs).getV r = s.getV r := by
  induction bs generalizing s i with
  | nil => rfl
  | cons b bs ih =>
    rw [List.length_cons] at hl
    have hne : r ≠ Fin.ofNat 16 i := fun he => by
      have := congrArg Fin.val he
      simp only [Fin.val_ofNat] at this
      omega
    rw [State.loadRegsFrom, ih _ (by omega) (by omega), State.getV_setV_of_ne _ _ hne]

/-- A run of register writes that does not pass VF leaves byte k of its list in register i + k. -/
theorem State.getV_loadRegsFrom_getElem (s : State) {i k : Nat} {bs : List Byte} (hl : i + bs.length ≤ 16)
    (hk : k < bs.length) {r : Reg} (hr : r.val = i + k) : (s.loadRegsFrom i bs).getV r = bs[k] := by
  induction bs generalizing s i k with
  | nil => exact absurd hk (Nat.not_lt_zero k)
  | cons b bs ih =>
    rw [List.length_cons] at hl hk
    rw [State.loadRegsFrom]
    cases k with
    | zero =>
      have hri : Fin.ofNat 16 i = r := Fin.ext (by simp only [Fin.val_ofNat]; omega)
      rw [State.getV_loadRegsFrom_below _ (by omega) (by omega), hri, State.getV_setV_self]
      rfl
    | succ k => exact ih _ (by omega) (by omega) (by omega)

/-- The registers after the bytes at I to I + x have been loaded. -/
theorem State.getV_loadRegsFrom_readRun (s : State) (x r : Reg) :
    (s.loadRegsFrom 0 (s.readRun ((List.range (x.val + 1)).map s.indexedAddr))).getV r =
      if r.val ≤ x.val then s.readByte (s.indexedAddr r.val) else s.getV r := by
  have hx := x.isLt
  have hl : (s.readRun ((List.range (x.val + 1)).map s.indexedAddr)).length = x.val + 1 := by simp [State.readRun]
  split
  · rw [s.getV_loadRegsFrom_getElem (k := r.val) (by omega) (by omega) (Nat.zero_add _).symm]
    simp [State.readRun]
  · exact s.getV_loadRegsFrom_above (by omega)

end Sys2Proof.Machine

section
open Sys2Proof Sys2Proof.Machine

/-- Settles O25: the run of writes fills I to I + x and no other address. -/
theorem storeRegistersWritesTheirRange : Obligations.StoreRegistersWritesTheirRange := by
  intro x s
  have hx := x.isLt
  have hword : encode (.storeRegs x) = wordX 0xF055 x := (wordX_eq 0xF 0x55 x).symm
  refine ⟨decode_of_encode hword, fun h => ⟨_, exec_storeRegs h, s.writeRun_eq _ _, fun r => ?_, fun a ha => ?_⟩,
    fun h hsafe => ?_⟩
  · exact readByte_of_exec_storeRegs h (exec_storeRegs h)
  · exact s.readByte_writeRun_of_ne_indexedAddr _ fun k hk => ha ⟨k, by omega⟩ (Nat.le_of_lt_succ hk)
  · rw [exec_storeRegs_of_not_accessible h, State.raiseExec_of_safe hsafe, hword]

/-- Settles O26: the run of register writes fills V0 to V[x] and no other register. -/
theorem loadRegistersReadsTheirRange : Obligations.LoadRegistersReadsTheirRange := by
  intro x s
  have hword : encode (.loadRegs x) = wordX 0xF065 x := (wordX_eq 0xF 0x65 x).symm
  refine ⟨decode_of_encode hword,
    fun h => ⟨_, exec_loadRegs h, s.loadRegsFrom_eq _ _, s.getV_loadRegsFrom_readRun x⟩, fun h hsafe => ?_⟩
  rw [exec_loadRegs_of_not_accessible h, State.raiseExec_of_safe hsafe, hword]

/-- Settles O27, from O25 and O26: the store changes memory alone, so the load uses the same addresses. -/
theorem storeThenLoadRestoresTheRegisters : Obligations.StoreThenLoadRestoresTheRegisters := by
  intro x s v h
  obtain ⟨-, hstore, -⟩ := storeRegistersWritesTheirRange x s
  obtain ⟨t, ht, htmem, hbyte, -⟩ := hstore h
  obtain ⟨m, rfl⟩ : ∃ m, t = { s with mem := m } := ⟨_, htmem⟩
  obtain ⟨-, hload, -⟩ := loadRegistersReadsTheirRange x { s with mem := m, v := v }
  obtain ⟨u, hu, hureg, hget⟩ := hload h
  exact ⟨_, u, ht, hu, by rw [hureg], fun r hr => (hget r).trans ((if_pos hr).trans (hbyte r hr))⟩

/-- Settles O23: each answers the state with its number in I. -/
theorem indexRegisterWrites : Obligations.IndexRegisterWrites := by
  intro x nnn s
  refine ⟨⟨decode_of_encode (wordA_eq 0xA nnn).symm, _, exec_ldI nnn s, rfl, zextAddr_toNat nnn⟩,
    ⟨decode_of_encode (wordX_eq 0xF 0x29 x).symm, _, exec_ldGlyph x s, rfl, zext16_mul_five_toNat _⟩,
    decode_of_encode (wordX_eq 0xF 0x1E x).symm, _, exec_addI x s, rfl, ?_⟩
  rw [State.setI_I, BitVec.toNat_add, zext16_toNat]

/-- Settles O24: the run of writes leaves each digit at its own address and no other byte changed. -/
theorem bcdStoresThreeDigits : Obligations.BcdStoresThreeDigits := by
  intro x s
  have hword : encode (.storeBcd x) = wordX 0xF033 x := (wordX_eq 0xF 0x33 x).symm
  refine ⟨decode_of_encode hword, fun h => ⟨_, exec_storeBcd h, s.writeRun_eq _ _, ?_⟩, fun h hsafe => ?_⟩
  · have hb := (s.getV x).isLt
    have hdigit (k : Nat) (hk : k < 3) :=
      s.readByte_writeRun_indexedAddr (n := 3) (bs := bcdDigits (s.getV x)) rfl (by decide) hk
    refine ⟨?_, ?_, ?_, fun a h0 h1 h2 => s.readByte_writeRun_of_ne_indexedAddr _ fun k hk => ?_⟩
    · exact (congrArg BitVec.toNat (hdigit 0 (by decide))).trans (byteOfNat_toNat (by omega))
    · exact (congrArg BitVec.toNat (hdigit 1 (by decide))).trans (byteOfNat_toNat (by omega))
    · exact (congrArg BitVec.toNat (hdigit 2 (by decide))).trans (byteOfNat_toNat (by omega))
    · interval_cases k
      exacts [h0, h1, h2]
  · rw [exec_storeBcd_of_not_accessible h, State.raiseExec_of_safe hsafe, hword]

end

/-! SUPPORT. The display family (spec/44_display.md): the canvas a draw answers, by the cells its sprite covers, and the
copy of the cells that the host reads. -/

namespace Sys2Proof.Machine

/-! ### A canvas after a draw, by its cells (R192, R193) -/

theorem Canvas.Drawn.changed_iff {p q : Canvas} {hit : Fin 64 → Fin 32 → Prop} (h : p.Drawn q hit) (c : Fin 64)
    (r : Fin 32) : q.fb.cell c r ≠ p.fb.cell c r ↔ hit c r := by
  by_cases hc : hit c r
  · simp [h.toggled c r hc, hc]
  · simp [h.untouched c r hc, hc]

/-- The collision flag of a draw that started with it down is "some cell that was set is now not" (R192). -/
theorem Canvas.Drawn.collided_iff_turnedOff {p q : Canvas} {hit : Fin 64 → Fin 32 → Prop} (h : p.Drawn q hit)
    (hp : p.collided = false) :
    q.collided = true ↔ ∃ c r, p.fb.cell c r = true ∧ q.fb.cell c r = false := by
  have hoff (c : Fin 64) (r : Fin 32) :
      hit c r ∧ p.fb.cell c r = true ↔ p.fb.cell c r = true ∧ q.fb.cell c r = false := by
    rw [← h.changed_iff c r]
    cases p.fb.cell c r <;> cases q.fb.cell c r <;> decide
  simp only [h.collided, hp, hoff, Bool.false_eq_true, false_or]

theorem Canvas.Drawn.collided_eq_false_of_kept {p q : Canvas} {hit : Fin 64 → Fin 32 → Prop} (h : p.Drawn q hit)
    (hp : p.collided = false) (hkept : ∀ c r, p.fb.cell c r = true → q.fb.cell c r = true) : q.collided = false :=
  Bool.eq_false_iff.mpr fun hup => by
    obtain ⟨c, r, hset, hoff⟩ := (h.collided_iff_turnedOff hp).mp hup
    exact Bool.false_ne_true (hoff.symm.trans (hkept c r hset))

/-- Inverting the same cells twice gives every cell back. -/
theorem Canvas.Drawn.fb_eq_of_twice {p q p' q' : Canvas} {hit : Fin 64 → Fin 32 → Prop} (h : p.Drawn q hit)
    (h' : p'.Drawn q' hit) (hfb : p'.fb = q.fb) : q'.fb = p.fb := by
  refine Framebuffer.ext_cell fun c r => ?_
  by_cases hc : hit c r
  · rw [h'.toggled c r hc, hfb, h.toggled c r hc, Bool.not_not]
  · rw [h'.untouched c r hc, hfb, h.untouched c r hc]

/-! ### What Dxyn answers (R192) -/

/-- The cells that Dxyn's sprite covers, in the terms of the machine. -/
def State.Covers (s : State) (x y : Reg) (n : Nat) : Fin 64 → Fin 32 → Prop :=
  SpriteCovers (fun j => s.readByte (s.indexedAddr j)) n (s.coordinate x) (s.coordinate y)

/-- Drawing the bytes at I to I + n − 1 inverts the cells they cover. -/
theorem State.drawRows_drawn (s : State) (x y : Reg) {n : Nat} (hn : n ≤ 32) (p : Canvas) :
    p.Drawn (Canvas.drawRows (s.coordinate x) (s.coordinate y) 0 (s.readRun ((List.range n).map s.indexedAddr)) p)
      (s.Covers x y n) := by
  refine (Canvas.drawRows_drawn _ _ 0 _ (by simpa [State.readRun] using hn) p).congr fun c r => ?_
  simp only [State.Covers, SpriteCovers, State.readRun, spriteBit, List.length_map, List.length_range, List.getElem_map,
    List.getElem_range, Nat.zero_add]
  constructor
  · rintro ⟨j, hj, k, h⟩
    exact ⟨j, k, hj, h⟩
  · rintro ⟨j, k, hj, h⟩
    exact ⟨j, hj, k, h⟩

/-- The state a draw leaves, of the canvas it has drawn. -/
def State.withCanvas (s : State) (p : Canvas) : State :=
  ((s.setV .vf 0).setFb p.fb).setV .vf (collisionFlag p.collided)

@[simp] theorem State.withCanvas_fb (s : State) (p : Canvas) : (s.withCanvas p).fb = p.fb := rfl

theorem State.withCanvas_getV_vf (s : State) (p : Canvas) : (s.withCanvas p).getV 15 = collisionFlag p.collided :=
  State.getV_setV_self ..

theorem State.withCanvas_getV_of_ne (s : State) (p : Canvas) {q : Reg} (hq : q ≠ 15) :
    (s.withCanvas p).getV q = s.getV q :=
  (State.getV_setV_of_ne _ _ hq).trans (s.getV_setV_of_ne 0 hq)

theorem exec_drw (x y : Reg) {n : Fin 16} {s : State} (h : n.val = 0 ∨ s.Accessible n.val) :
    ∃ p : Canvas, Canvas.Drawn ⟨s.fb, false⟩ p (s.Covers x y n.val) ∧
      exec (.drw x y n) s = .next (s.withCanvas p) := by
  refine ⟨_, s.drawRows_drawn x y (n.isLt.le.trans (by decide)) _, ?_⟩
  simp only [exec, execDrw, State.indexed_of_accessible h, State.coordState_getV]
  rfl

theorem exec_drw_of_not_accessible (x y : Reg) {n : Fin 16} {s : State} (hn : n.val ≠ 0) (h : ¬ s.Accessible n.val) :
    exec (.drw x y n) s = .next (s.raiseExec .memOutOfBounds (.drw x y n)) := by
  obtain ⟨m, hm⟩ := Nat.exists_eq_succ_of_ne_zero hn
  rw [hm] at h
  simp only [exec, execDrw, hm, State.indexed_of_not_accessible h]

theorem encode_drw (x y : Reg) (n : Fin 16) :
    encode (.drw x y n) = BitVec.ofNat 16 (0xD000 + 256 * x.val + 16 * y.val + n.val) :=
  calc encode (.drw x y n) = wordXY (0xD000 + n.val) x y := (wordXY_eq 0xD (nibble n) x y).symm
    _ = BitVec.ofNat 16 (0xD000 + 256 * x.val + 16 * y.val + n.val) := congrArg (BitVec.ofNat 16) (by omega)

/-! ### The second of two draws (R193) -/

theorem State.coordinate_of_ne (s : State) {x : Reg} (hx : x ≠ 15) : s.coordinate x = (s.getV x).toNat :=
  if_neg fun h => hx h.1

/-- A draw changes neither the sprite nor a coordinate register other than VF, so the next one covers the same cells. -/
theorem State.covers_withCanvas (s : State) (p : Canvas) {x y : Reg} (hx : x ≠ 15) (hy : y ≠ 15) (n : Nat) :
    (s.withCanvas p).Covers x y n = s.Covers x y n := by
  have hcoord {q : Reg} (hq : q ≠ 15) : (s.withCanvas p).coordinate q = s.coordinate q := by
    rw [State.coordinate_of_ne _ hq, State.coordinate_of_ne _ hq, State.withCanvas_getV_of_ne s p hq]
  simp only [State.Covers, hcoord hx, hcoord hy]
  rfl

theorem exists_spriteBit_of_ne_zero {b : Byte} (hb : b ≠ 0) : ∃ k < 8, b.getLsbD (7 - k) = true := by
  by_contra hnone
  refine hb (BitVec.eq_of_getLsbD_eq fun i hi => ?_)
  have hbit : b.getLsbD (7 - (7 - i)) ≠ true := fun h => hnone ⟨7 - i, by omega, h⟩
  rw [show 7 - (7 - i) = i by omega] at hbit
  simpa using hbit

/-- A sprite with a set bit covers a cell. -/
theorem State.exists_covers (s : State) (x y : Reg) {n : Nat} (h : ∃ j < n, s.readByte (s.indexedAddr j) ≠ 0) :
    ∃ c r, s.Covers x y n c r := by
  obtain ⟨j, hj, hb⟩ := h
  obtain ⟨k, hk, hbit⟩ := exists_spriteBit_of_ne_zero hb
  exact ⟨Fin.ofNat 64 (s.coordinate x + k), Fin.ofNat 32 (s.coordinate y + j), j, k, hj, hk, hbit, rfl, rfl⟩

/-! ### The frame of the framebuffer (R195) -/

theorem Effect.fb_eq {i : Instr} {s t : State} (h : Effect i s t) :
    t.fb = s.fb ∨ i = .cls ∨ ∃ x y n, i = .drw x y n := by
  cases h with
  | sprite => exact .inr (.inr ⟨_, _, _, rfl⟩)
  | clear => exact .inr (.inl rfl)
  | store => exact .inl (by simp)
  | _ => exact .inl rfl

/-! ### The copy of the cells (R194) -/

theorem Framebuffer.cells_eq_toList_flatten (fb : Framebuffer) : fb.cells = fb.flatten.toList := by
  show _ = (fb.toArray.map Vector.toArray).flatten.toList
  rw [Array.toList_flatten, Array.toList_map, List.map_map]
  rfl

theorem Framebuffer.length_cells (fb : Framebuffer) : fb.cells.length = 2048 := by
  rw [cells_eq_toList_flatten, Vector.length_toList]

theorem Framebuffer.getElem?_cells (fb : Framebuffer) (c : Fin 64) (r : Fin 32) :
    fb.cells[c.val + 64 * r.val]? = some (fb.cell c r) := by
  have hc := c.isLt
  have hr := r.isLt
  have hrow : (c.val + 64 * r.val) / 64 = r.val := by omega
  have hcol : (c.val + 64 * r.val) % 64 = c.val := by omega
  rw [cells_eq_toList_flatten, Vector.getElem?_toList, Vector.getElem?_flatten, dif_pos (by omega)]
  simp only [hrow, hcol, Framebuffer.cell]

theorem eq_readDisplay_of_transact {tr : Transaction} {s t : State} {cells : List Bool}
    (h : transact tr s = .next (t, .display cells)) : tr = .readDisplay := by
  cases tr with
  | readDisplay => rfl
  | step r =>
    obtain ⟨u, -, -, ho⟩ := step_of_transact_step h
    cases ho
  | tick =>
    simp only [transact] at h
    split at h <;> cases h
  | reset | load _ | setKey _ _ => cases h

end Sys2Proof.Machine

section
open Sys2Proof Sys2Proof.Machine

/-- Settles O30: the canvas drawn says which cells changed, and its collision flag whether one was turned off. -/
theorem drawTogglesTheCoveredCells : Obligations.DrawTogglesTheCoveredCells := by
  intro x y n s
  refine ⟨decode_of_encode (encode_drw x y n), fun h => ?_, fun hn h hsafe => ?_⟩
  · obtain ⟨p, hp, hexec⟩ := exec_drw x y h
    refine ⟨_, hexec, rfl, hp.changed_iff, fun q => s.withCanvas_getV_of_ne p, fun hoff => ?_, fun hkept => ?_⟩
    · rw [State.withCanvas_getV_vf, (hp.collided_iff_turnedOff rfl).mpr hoff]
      rfl
    · rw [State.withCanvas_getV_vf, hp.collided_eq_false_of_kept rfl hkept]
      rfl
  · rw [exec_drw_of_not_accessible x y hn h, State.raiseExec_of_safe hsafe, encode_drw]

/-- Settles O31: the second draw inverts the same cells; on a blank framebuffer it finds them all set. -/
theorem drawingTwiceErases : Obligations.DrawingTwiceErases := by
  intro x y n s hx hy h
  obtain ⟨p, hp, ht⟩ := exec_drw x y h
  obtain ⟨q, hq, hu⟩ := exec_drw (s := s.withCanvas p) x y h
  rw [s.covers_withCanvas p hx hy] at hq
  refine ⟨_, _, ht, hu, hp.fb_eq_of_twice hq rfl, fun hblank => ?_, fun hblank hrow => ?_⟩
  · have hkept (c : Fin 64) (r : Fin 32) (hset : s.fb.cell c r = true) : p.fb.cell c r = true :=
      absurd ((hblank c r).symm.trans hset) Bool.false_ne_true
    rw [State.withCanvas_getV_vf, hp.collided_eq_false_of_kept rfl hkept]
    rfl
  · obtain ⟨c, r, hc⟩ := s.exists_covers x y hrow
    have hset : p.fb.cell c r = true := (hp.toggled c r hc).trans (by rw [hblank c r]; rfl)
    rw [State.withCanvas_getV_vf, hq.collided.mpr (.inr ⟨c, r, hc, hset⟩)]
    rfl

/-- Settles O47, by the frame of the framebuffer. -/
theorem onlyClearAndDrawWriteTheFramebuffer : Obligations.OnlyClearAndDrawWriteTheFramebuffer := by
  intro i s t h hfb
  rcases exec_ends h with ⟨-, rfl⟩ | ⟨-, he⟩
  · exact absurd (State.raiseExec_fb ..) hfb
  · exact he.fb_eq.resolve_left hfb

/-- Settles O29: the framebuffer after a clear is the blank one. -/
theorem clearTurnsEveryCellOff : Obligations.ClearTurnsEveryCellOff :=
  ⟨decode_encode .cls, fun _ => ⟨_, rfl, rfl, Framebuffer.cell_blank⟩⟩

/-- Settles O41: the cell at a column and row is in its place in the copy, and no other transaction gives one. -/
theorem readDisplayCopiesRowMajor : Obligations.ReadDisplayCopiesRowMajor := fun s =>
  ⟨⟨s.fb.cells, rfl, s.fb.length_cells, s.fb.getElem?_cells⟩, fun _ _ _ => eq_readDisplay_of_transact⟩

end

/-! SUPPORT. The timers and keys family (spec/45_timers_keys.md): the numbers a TICK leaves in the timers, the key Fx0A
finds, and the frames of the timers, the keys and the RNG input. -/

namespace Sys2Proof.Machine

/-! ### TICK (R216, R217) -/

theorem tickDown_toNat (b : Byte) : (tickDown b).toNat = b.toNat - 1 := by
  unfold tickDown
  split
  · next h => rw [h]; rfl
  · next h =>
    have hpos : b.toNat ≠ 0 := fun h0 => h (BitVec.eq_of_toNat_eq h0)
    have hb := b.isLt
    rw [BitVec.toNat_sub, show (1 : Byte).toNat = 1 from rfl]
    omega

theorem State.soundExpires_iff (s : State) : s.soundExpires = true ↔ s.st.toNat = 1 := by
  rw [State.soundExpires, decide_eq_true_eq, ← BitVec.toNat_inj]
  rfl

/-! ### Fx07, Fx15, Fx18 (R211 to R213) -/

theorem exec_ldFromDT (x : Reg) (s : State) : exec (.ldFromDT x) s = .next (s.setV x s.dt) := rfl

theorem exec_ldToDT (x : Reg) (s : State) : exec (.ldToDT x) s = .next { s with dt := s.getV x } := rfl

theorem exec_ldToST (x : Reg) (s : State) : exec (.ldToST x) s = .next { s with st := s.getV x } := rfl

/-! ### Fx0A (R214) -/

theorem State.firstKey_eq_some {s : State} {k : Fin 16} (hk : s.keys[k.val] = true)
    (hlow : ∀ j : Fin 16, j.val < k.val → s.keys[j.val] = false) : s.firstKey = some k := by
  refine List.find?_eq_some_iff_getElem.mpr ⟨hk, k.val, by simp, by simp, fun j hj => ?_⟩
  have hoff := hlow ⟨j, hj.trans k.isLt⟩ hj
  simpa using hoff

theorem State.firstKey_eq_none {s : State} (h : ∀ j : Fin 16, s.keys[j.val] = false) : s.firstKey = none :=
  List.find?_eq_none.mpr fun j _ => by simp [h j]

theorem exec_waitKey_of_key {s : State} {k : Fin 16} (h : s.firstKey = some k) (x : Reg) :
    exec (.waitKey x) s = .next (s.setV x (byteOfNat k.val)) := by
  simp only [exec, execWaitKey, h]

theorem exec_waitKey_of_noKey {s : State} (h : s.firstKey = none) (x : Reg) :
    exec (.waitKey x) s =
      .next { s with pc := if s.cfg.waitKeyMode = .skipForward then s.pc + 2 else s.pc - 2 } := by
  simp only [exec, execWaitKey, h]
  cases s.cfg.waitKeyMode <;> rfl

/-! ### SET_KEY (R218) -/

theorem State.setKey_of_key (s : State) (k : Fin 16) (p : Bool) : s.setKey k.val p = s.setKeyFlag k p :=
  dif_pos k.isLt

theorem State.setKey_of_noKey (s : State) {k : Nat} (h : 16 ≤ k) (p : Bool) :
    s.setKey k p = s.raise .setKeyOutOfRange s.pc 0 := dif_neg h.not_gt

/-! ### The frames of the keys, the timers and the RNG input (R28, R160, R210) -/

theorem Effect.keys_eq {i : Instr} {s t : State} (h : Effect i s t) : t.keys = s.keys := by
  cases h with
  | store => simp
  | _ => rfl

theorem Effect.dt_eq {i : Instr} {s t : State} (h : Effect i s t) : t.dt = s.dt ∨ ∃ x, i = .ldToDT x := by
  cases h with
  | delay => exact .inr ⟨_, rfl⟩
  | store => exact .inl (by simp)
  | _ => exact .inl rfl

theorem Effect.st_eq {i : Instr} {s t : State} (h : Effect i s t) : t.st = s.st ∨ ∃ x, i = .ldToST x := by
  cases h with
  | sound => exact .inr ⟨_, rfl⟩
  | store => exact .inl (by simp)
  | _ => exact .inl rfl

theorem Effect.rng_eq {i : Instr} {s t : State} (h : Effect i s t) :
    (t.rngQueue = s.rngQueue ∧ t.rngDraws = s.rngDraws) ∨ ∃ x nn, i = .rnd x nn := by
  cases h with
  | draw => exact .inr ⟨_, _, rfl⟩
  | store => exact .inl (by simp)
  | _ => exact .inl ⟨rfl, rfl⟩

end Sys2Proof.Machine

section
open Sys2Proof Sys2Proof.Machine

/-- Settles O34: each timer by `tickDown`, and the event by the ST it finds. -/
theorem tickDecrementsAndReportsExpiry : Obligations.TickDecrementsAndReportsExpiry := by
  intro s
  have hst : s.tick.st.toNat = s.st.toNat - 1 := tickDown_toNat s.st
  refine ⟨_, _, rfl, rfl, tickDown_toNat s.dt, hst, ?_, fun h => ?_⟩
  · have hzero : s.st.toNat = 1 ∧ s.tick.st.toNat = 0 ↔ s.st.toNat = 1 := by omega
    rw [hzero, ← s.soundExpires_iff]
    cases s.soundExpires <;> decide
  · cases hs : s.soundExpires
    · rfl
    · exact absurd (if_pos hs) h

/-- Settles O35, by induction on n: the first TICK is O34's, and it takes the event from the n after it exactly when it
emits the event itself. -/
theorem ticksInARowExpireOnce : Obligations.TicksInARowExpireOnce := by
  intro n
  induction n with
  | zero => exact fun s => ⟨s, [], rfl, rfl, rfl, rfl, (if_neg (by omega)).symm⟩
  | succ n ih =>
    intro s
    obtain ⟨t, o, htick, ht, hdt, hst, ho, -⟩ := tickDecrementsAndReportsExpiry s
    obtain ⟨u, os, hticks, hu, hudt, hust, hcount⟩ := ih t
    refine ⟨u, o :: os, transactAll_cons htick hticks, hu.trans (by rw [ht]), by omega, by omega, ?_⟩
    simp only [List.count_cons, hcount, beq_iff_eq, ho]
    split_ifs <;> omega

/-- Settles O48: a raised fault changes none of these, and an effect only what its instruction writes. -/
theorem timersKeysParametersAndDrawsAreLeftAlone : Obligations.TimersKeysParametersAndDrawsAreLeftAlone := by
  intro i s t h
  rcases exec_ends h with ⟨-, rfl⟩ | ⟨-, he⟩
  · simp
  · refine ⟨he.keys_eq, he.cfg_eq, he.dt_eq.resolve_left, he.st_eq.resolve_left, fun hne => ?_⟩
    exact he.rng_eq.resolve_left fun ⟨hq, hd⟩ => hne.elim (absurd hq) (absurd hd)

/-- Settles O32: each is one write. -/
theorem timerMoves : Obligations.TimerMoves := fun x s =>
  ⟨⟨decode_of_encode (wordX_eq 0xF 0x07 x).symm, _, exec_ldFromDT x s, rfl, fun r => s.getV_setV x r s.dt⟩,
    ⟨decode_of_encode (wordX_eq 0xF 0x15 x).symm, exec_ldToDT x s⟩,
    decode_of_encode (wordX_eq 0xF 0x18 x).symm, exec_ldToST x s⟩

/-- Settles O33: the scan finds the lowest pressed key, or none. -/
theorem waitForKeyTakesTheLowestKey : Obligations.WaitForKeyTakesTheLowestKey := by
  intro x s
  refine ⟨decode_of_encode (wordX_eq 0xF 0x0A x).symm, fun k hk hlow => ?_, fun hnone => ?_⟩
  · refine ⟨_, exec_waitKey_of_key (State.firstKey_eq_some hk hlow) x, rfl, fun r => ?_⟩
    rw [State.getV_setV, apply_ite BitVec.toNat, byteOfNat_toNat (by omega)]
  · exact exec_waitKey_of_noKey (State.firstKey_eq_none hnone) x

/-- Settles O36: the two ranges of the index, and at 16 and above the latch, clear or not. -/
theorem setKeySetsItsFlagOrLatches : Obligations.SetKeySetsItsFlagOrLatches := by
  intro s p
  refine ⟨fun k => ⟨s.setKeyFlag k p, ?_, rfl, fun j => ?_⟩, fun k hk => ⟨fun hsafe => ?_, fun hfaulted => ?_⟩⟩
  · rw [transact, State.setKey_of_key]
  · simp only [State.setKeyFlag_keys, Vector.getElem_set, Fin.ext_iff, eq_comm]
  · rw [transact, State.setKey_of_noKey s hk, State.raise_of_safe hsafe]
  · rw [transact, State.setKey_of_noKey s hk, State.raise_of_faulted hfaulted]

end

/-! SUPPORT. The exceptions family (spec/60_exceptions.md): what the latch does to each transaction and each transaction to
the latch, and the state a fault leaves. -/

namespace Sys2Proof.Machine

/-! ### LOAD (R261) -/

theorem State.load_of_tooLong (s : State) {b : List Byte} (h : 3584 < b.length) :
    s.load b = s.raise .loadTooLarge s.pc 0 := if_pos h

theorem State.load_of_fits (s : State) {b : List Byte} (h : b.length ≤ 3584) :
    s.load b = s.writeRun (loadAddrs b.length) b := if_neg h.not_gt

theorem State.writeRun_withFault (s : State) (f : FaultLatch) (addrs : List Addr) (bs : List Byte) :
    State.writeRun { s with fault := f } addrs bs = { s.writeRun addrs bs with fault := f } := by
  induction addrs generalizing s bs with
  | nil => cases bs <;> rfl
  | cons a addrs ih =>
    cases bs with
    | nil => rfl
    | cons b bs => exact ih (s.writeByte a b) bs

/-! ### The transactions beside RESET and STEP, and the latch (R230 to R232) -/

/-- All that LOAD, TICK, SET_KEY and READ_DISPLAY do with the latch, by their inputs alone: raise a fault of their own and do
nothing else, or neither read nor write it. -/
inductive LatchUse (tr : Transaction) : Prop
  | raises {c : FaultCode} (code : c = .loadTooLarge ∨ c = .setKeyOutOfRange)
      (answer : ∀ s, transact tr s = .next (s.raise c s.pc 0, .none))
  | ignores (answer : ∀ s f, ∃ t o, transact tr s = .next (t, o) ∧ t.fault = s.fault ∧
      transact tr { s with fault := f } = .next ({ t with fault := f }, o))

theorem latchUse_load (b : List Byte) : LatchUse (.load b) := by
  by_cases h : b.length ≤ 3584
  · refine .ignores fun s f => ⟨_, _, rfl, ?_, ?_⟩
    · rw [s.load_of_fits h, State.writeRun_fault]
    · rw [transact, s.load_of_fits h, State.load_of_fits _ h, State.writeRun_withFault]
  · exact .raises (.inl rfl) fun s => by rw [transact, s.load_of_tooLong (by omega)]

theorem latchUse_setKey (k : Nat) (p : Bool) : LatchUse (.setKey k p) := by
  by_cases h : k < 16
  · have hkey (s : State) : transact (.setKey k p) s = .next (s.setKeyFlag ⟨k, h⟩ p, .none) := by
      rw [transact, s.setKey_of_key ⟨k, h⟩]
    exact .ignores fun s f => ⟨_, _, hkey s, rfl, hkey _⟩
  · exact .raises (.inr rfl) fun s => by rw [transact, s.setKey_of_noKey (by omega)]

theorem latchUse_of_ne {tr : Transaction} (hreset : tr ≠ .reset) (hstep : ∀ r, tr ≠ .step r) : LatchUse tr := by
  cases tr with
  | reset => exact absurd rfl hreset
  | step r => exact absurd rfl (hstep r)
  | load b => exact latchUse_load b
  | setKey k p => exact latchUse_setKey k p
  | tick | readDisplay => exact .ignores fun s f => ⟨_, _, rfl, rfl, rfl⟩

theorem transact_step_of_faulted {s : State} (h : s.fault.code ≠ .noFault) (r : Byte) :
    transact (.step r) s = .next (s, .none) :=
  transact_step_of_step (t := s.offerRandom r) (step_of_faulted h)

/-- A latched fault makes no difference but the latch to a transaction beside RESET and STEP (R232). -/
theorem LatchUse.transact_of_faulted {tr : Transaction} (h : LatchUse tr) {s : State} (hs : s.fault.code ≠ .noFault) :
    ∃ t o, transact tr { s with fault := FaultLatch.clear } = .next (t, o) ∧
      transact tr s = .next ({ t with fault := s.fault }, o) := by
  cases h with
  | raises _ answer =>
    refine ⟨_, _, answer _, ?_⟩
    rw [answer s, State.raise_of_faulted hs, State.raise_of_safe rfl]
  | ignores answer =>
    obtain ⟨t, o, ht, -, hf⟩ := answer { s with fault := FaultLatch.clear } s.fault
    exact ⟨t, o, ht, hf⟩

/-- Only RESET takes a latched fault away (R231, R237). -/
theorem fault_eq_of_transact {tr : Transaction} {s t : State} {o : Output} (hs : s.fault.code ≠ .noFault)
    (hreset : tr ≠ .reset) (h : transact tr s = .next (t, o)) : t.fault = s.fault := by
  by_cases hstep : ∃ r, tr = .step r
  · obtain ⟨r, rfl⟩ := hstep
    rw [transact_step_of_faulted hs] at h
    cases h
    rfl
  · obtain ⟨u, o', -, hu⟩ := (latchUse_of_ne hreset fun r hr => hstep ⟨r, hr⟩).transact_of_faulted hs
    rw [hu] at h
    cases h
    rfl

/-! ### The state a fault leaves (R233) -/

/-- `t` is `s` with a fault latched, and pc advanced where the fault was raised during execution (R233). -/
def LatchedFrom (s t : State) : Prop :=
  t = { s with pc := if t.fault.code.toNat ∈ [1, 2, 3, 5, 7] then s.pc + 2 else s.pc, fault := t.fault } ∧ t.fault.fpc = s.pc

/-- A raise by the fetch or by a host transaction leaves pc. -/
theorem latchedFrom_of_pcKept (s : State) {c : FaultCode} (hc : c.toNat ∉ [1, 2, 3, 5, 7]) (w : Word) :
    LatchedFrom s { s with fault := ⟨c, s.pc, w⟩ } := by
  simp only [LatchedFrom, if_neg hc, and_self]

/-- A raise during execution finds pc advanced. -/
theorem latchedFrom_of_pcAdvanced (s : State) {c : FaultCode} (hc : c.toNat ∈ [1, 2, 3, 5, 7]) (w : Word) :
    LatchedFrom s { s with pc := s.pc + 2, fault := ⟨c, s.pc, w⟩ } := by
  simp only [LatchedFrom, if_pos hc, and_self]

theorem ownFault_duringExecution {i : Instr} {s : State} (h : ownFault i s ≠ .noFault) :
    (ownFault i s).toNat ∈ [1, 2, 3, 5, 7] := by
  unfold ownFault at h ⊢
  split at h <;> rw [if_pos (ite_ne_right_iff.mp h).1] <;> decide

/-- An instruction executed with no fault latched (R230, R233). -/
theorem exec_eq_faultedBy {i : Instr} {s : State} (hs : s.fault.code = .noFault) (h : ownFault i s ≠ .noFault) :
    exec i s = .next (s.faultedBy (ownFault i s) (encode i)) := by
  obtain ⟨t, ht⟩ := exec_next i s
  rcases exec_ends ht with ⟨-, rfl⟩ | ⟨h0, -⟩
  · rw [ht, State.raiseExec_of_safe hs]
  · exact absurd h0 h

theorem fault_eq_of_exec {i : Instr} {s t : State} (h : ownFault i s = .noFault) (ht : exec i s = .next t) :
    t.fault = s.fault := by
  rcases exec_ends ht with ⟨h0, -⟩ | ⟨-, he⟩
  · exact absurd h h0
  · exact he.fault_eq

theorem latchedFrom_of_exec {i : Instr} {s t : State} (hs : s.fault.code = .noFault)
    (h : exec i s.advancePc = .next t) (ht : t.fault.code ≠ .noFault) : LatchedFrom s t := by
  by_cases hown : ownFault i s.advancePc = .noFault
  · rw [fault_eq_of_exec hown h] at ht
    exact absurd hs ht
  · rw [exec_eq_faultedBy (s := s.advancePc) hs hown] at h
    cases h
    simp only [State.faultedBy, State.advancePc_pc, BitVec.add_sub_cancel]
    exact latchedFrom_of_pcAdvanced s (ownFault_duringExecution hown) _

theorem latchedFrom_of_step {s t : State} (hs : s.fault.code = .noFault) (h : step s = .next t)
    (ht : t.fault.code ≠ .noFault) : LatchedFrom s t := by
  rcases step_cases s with ⟨h0, -⟩ | ⟨-, -, hst⟩ | ⟨w, e, -, -, -, hst⟩ | ⟨w, i, -, -, -, hst⟩
  · exact absurd hs h0
  · rw [hst] at h
    cases h
    exact latchedFrom_of_pcKept s (by decide) 0
  · rw [hst] at h
    cases h
    exact latchedFrom_of_pcAdvanced s (by decide) w
  · exact latchedFrom_of_exec hs (hst ▸ h) ht

/-- The RNG byte of a STEP transaction is no part of the state before or after (R40). -/
theorem LatchedFrom.withQueue {s t : State} {r : Byte} (h : LatchedFrom (s.offerRandom r) t) :
    LatchedFrom s (t.withQueue s.rngQueue) :=
  ⟨congrArg (State.withQueue · s.rngQueue) h.1, h.2⟩

theorem LatchUse.latchedFrom {tr : Transaction} (h : LatchUse tr) {s t : State} {o : Output}
    (hs : s.fault.code = .noFault) (hst : transact tr s = .next (t, o)) (ht : t.fault.code ≠ .noFault) :
    LatchedFrom s t := by
  cases h with
  | raises code answer =>
    rw [answer s, State.raise_of_safe hs] at hst
    cases hst
    exact latchedFrom_of_pcKept s (by rcases code with rfl | rfl <;> decide) 0
  | ignores answer =>
    obtain ⟨u, o', hu, hfault, -⟩ := answer s s.fault
    rw [hu] at hst
    cases hst
    exact absurd (hfault ▸ hs) ht

end Sys2Proof.Machine

section
open Sys2Proof Sys2Proof.Machine

/-- Settles O9: STEP by its halt check, RESET by its latch, and the other transactions by their use of the latch. -/
theorem haltedBlockOnlyIgnoresStep : Obligations.HaltedBlockOnlyIgnoresStep := fun _ hs =>
  ⟨step_of_faulted hs, transact_step_of_faulted hs,
    fun _ hreset hstep => (latchUse_of_ne hreset hstep).transact_of_faulted hs, _, rfl, rfl⟩

/-- Settles O50, by the two ways an instruction ends. -/
theorem instructionsFaultExactlyAsRuled : Obligations.InstructionsFaultExactlyAsRuled := by
  refine fun i s hs => ⟨exec_eq_faultedBy hs, fun h => ?_⟩
  obtain ⟨t, ht⟩ := exec_next i s
  exact ⟨t, ht, fault_eq_of_exec h ht⟩

/-- Settles O51: RESET clears the latch, STEP faults in the fetch, the decoder or the instruction, and the other transactions
raise before they change anything. -/
theorem faultsArePrecise : Obligations.FaultsArePrecise := by
  intro tr s t o hs h ht
  cases tr with
  | reset => cases h; exact absurd rfl ht
  | step r =>
    obtain ⟨u, hu, rfl, -⟩ := step_of_transact_step h
    exact (latchedFrom_of_step (s := s.offerRandom r) hs hu ht).withQueue
  | load _ | tick | setKey _ _ | readDisplay => exact (latchUse_of_ne (by nofun) (by nofun)).latchedFrom hs h ht

/-- Settles O52, by induction on the sequence: each transaction of it keeps the latch. -/
theorem firstFaultStaysUntilReset : Obligations.FirstFaultStaysUntilReset := by
  intro ts
  induction ts with
  | nil => intro s t os _ _ h; cases h; rfl
  | cons tr ts ih =>
    intro s t os hs hreset h
    obtain ⟨u, o, os', hu, ht, -⟩ := transactAll_cons_inv h
    obtain ⟨htr, hts⟩ := List.ne_and_not_mem_of_not_mem_cons hreset
    have hfault : u.fault = s.fault := fault_eq_of_transact hs htr.symm hu
    exact (ih u t os' (hfault ▸ hs) hts ht).trans hfault

end

/-! SUPPORT. The reset and hazards family (spec/70_reset_and_hazards.md): the addresses LOAD fills, and the run status that
is idle. -/

namespace Sys2Proof.Machine

/-! ### The addresses of LOAD (R261) -/

theorem loadAddrs_length (n : Nat) : (loadAddrs n).length = n := by rw [loadAddrs, List.length_map, List.length_range]

/-- LOAD's addresses are not reduced modulo 4096: the last one is at most 0x200 + 3583 = 4095. -/
theorem val_ofNat_programBase_add {n k : Nat} (hn : n ≤ 3584) (hk : k < n) :
    (Fin.ofNat 4096 (0x200 + k)).val = 0x200 + k :=
  Nat.mod_eq_of_lt (by omega)

theorem loadAddrs_getElem {n k : Nat} (hn : n ≤ 3584) (hk : k < (loadAddrs n).length) :
    (loadAddrs n)[k].val = 0x200 + k := by
  have hk' : k < n := loadAddrs_length n ▸ hk
  simp only [loadAddrs, List.getElem_map, List.getElem_range]
  exact val_ofNat_programBase_add hn hk'

theorem loadAddrs_nodup {n : Nat} (hn : n ≤ 3584) : (loadAddrs n).Nodup := by
  refine List.Nodup.map_on (fun i hi j hj h => ?_) List.nodup_range
  have hval := congrArg Fin.val h
  rw [val_ofNat_programBase_add hn (List.mem_range.mp hi), val_ofNat_programBase_add hn (List.mem_range.mp hj)] at hval
  omega

theorem val_of_mem_loadAddrs {n : Nat} (hn : n ≤ 3584) {a : Addr} (ha : a ∈ loadAddrs n) :
    0x200 ≤ a.val ∧ a.val < 0x200 + n := by
  obtain ⟨k, hk, rfl⟩ := List.getElem_of_mem ha
  rw [loadAddrs_getElem hn hk]
  rw [loadAddrs_length] at hk
  omega

/-! ### What a LOAD that fits leaves in memory (R261) -/

theorem State.readByte_load_inside (s : State) {b : List Byte} (hb : b.length ≤ 3584) {k : Nat} (hk : k < b.length)
    {a : Addr} (ha : a.val = 0x200 + k) : (s.load b).readByte a = b[k] := by
  have hk' : k < (loadAddrs b.length).length := (loadAddrs_length _).symm ▸ hk
  obtain rfl : (loadAddrs b.length)[k] = a := Fin.ext ((loadAddrs_getElem hb hk').trans ha.symm)
  rw [s.load_of_fits hb]
  exact s.readByte_writeRun_getElem (loadAddrs_nodup hb) (loadAddrs_length _).symm hk'

theorem State.readByte_load_outside (s : State) {b : List Byte} (hb : b.length ≤ 3584) {a : Addr}
    (ha : a.val < 0x200 ∨ 0x200 + b.length ≤ a.val) : (s.load b).readByte a = s.readByte a := by
  rw [s.load_of_fits hb]
  refine s.readByte_writeRun_outside _ _ fun hmem => ?_
  have hval := val_of_mem_loadAddrs hb hmem
  omega

theorem transact_load (s : State) (b : List Byte) : transact (.load b) s = .next (s.load b, .none) := rfl

/-! ### The idle status (R275) -/

/-- A run is idle at a exactly when no fault is latched, pc is a, and the word at a is a jump to a. -/
theorem State.runStatus_eq_idle_iff {s : State} {a : Word} :
    s.runStatus = .idle a ↔ s.fault.code = .noFault ∧ s.pc = a ∧
      ∃ w nnn, s.fetchWord = some w ∧ decode w = .ok (.jp nnn) ∧ zextAddr nnn = a := by
  constructor
  · intro h
    unfold State.runStatus at h
    split at h
    · cases h
    · have hsafe := Decidable.not_not.mp ‹_›
      split at h
      · cases h
      · have hfetch := ‹s.fetchWord = some _›
        split at h
        · split at h
          · cases h
            exact ⟨hsafe, rfl, _, _, hfetch, ‹_›, ‹_›⟩
          · cases h
        · cases h
  · rintro ⟨hsafe, rfl, w, nnn, hfetch, hdecode, hself⟩
    simp [State.runStatus, hsafe, hfetch, hdecode, hself]

/-- A jump to the address it stands at leaves the state as it was before the fetch advanced pc (R71, R103). -/
theorem exec_jp_advancePc_of_self {s : State} {nnn : BitVec 12} (h : zextAddr nnn = s.pc) :
    exec (.jp nnn) s.advancePc = .next s := by
  rw [exec_jp, h]; rfl

end Sys2Proof.Machine

section
open Sys2Proof Sys2Proof.Machine

/-- Settles O37: a LOAD that fits is a run of writes to 0x200 and on, and a longer one raises its fault. -/
theorem loadCopiesToProgramBase : Obligations.LoadCopiesToProgramBase := by
  refine fun s b => ⟨fun hb => ⟨_, transact_load s b, ?_, fun k hk a => s.readByte_load_inside hb hk,
    fun a => s.readByte_load_outside hb⟩, fun hb => ⟨fun hs => ?_, fun hs => ?_⟩⟩
  · rw [s.load_of_fits hb]
    exact s.writeRun_eq _ _
  · rw [transact_load, s.load_of_tooLong hb, State.raise_of_safe hs]
  · rw [transact_load, s.load_of_tooLong hb, State.raise_of_faulted hs]

/-- Settles O40: RESET answers the reset state with the machine's own parameters and RNG input, and LOAD goes on from
there. -/
theorem resetThenLoadIsConstructThenLoad : Obligations.ResetThenLoadIsConstructThenLoad := fun s b =>
  have hreset : transact .reset s = .next (State.resetWith s.cfg s.rngQueue s.rngDraws, .none) := rfl
  transactAll_cons hreset (transactAll_cons (transact_load _ b) rfl)

/-- Settles O59: the step fetches and decodes the jump to pc, which undoes the advance of pc. -/
theorem idleStateIsAFixedPoint : Obligations.IdleStateIsAFixedPoint := by
  intro s a h
  obtain ⟨hsafe, rfl, w, nnn, hfetch, hdecode, hself⟩ := State.runStatus_eq_idle_iff.mp h
  exact ⟨rfl, hsafe, (step_of_decode_ok hsafe hfetch hdecode).trans (exec_jp_advancePc_of_self hself)⟩

end

/-! SUPPORT. The statements about the decoder, the step cycle and RESET as a whole: the lemmas of the families above, put
together. -/

namespace Sys2Proof.Machine

/-! ### The fetched word as a number (R51) -/

theorem State.fetchWord_eq_ofNat (s : State) {a b : Addr} (ha : a.val = s.pc.toNat) (hb : b.val = s.pc.toNat + 1) :
    s.fetchWord = some (BitVec.ofNat 16 (256 * (s.readByte a).toNat + (s.readByte b).toNat)) := by
  rw [s.fetchWord_eq ha hb, wordOfBytes_eq_ofNat]

/-! ### The state after reset (R37, R260) -/

theorem State.Inv.resetWith (c : Config) (queue : List Byte) (draws : Nat) : (State.resetWith c queue draws).Inv :=
  ⟨MemoryLaws.wf_nil c, rfl, rfl⟩

theorem transact_reset (s : State) :
    transact .reset s = .next (State.resetWith s.cfg s.rngQueue s.rngDraws, .none) := rfl

end Sys2Proof.Machine

section
open Sys2Proof Sys2Proof.Machine

/-- Settles O2, by the fields of each format's word. -/
theorem decodeOfEncodeIsTheInstruction : Obligations.DecodeOfEncodeIsTheInstruction := decode_encode

/-- Settles O3: every answer of the decoder loses no bit of the word. -/
theorem encodeOfDecodeIsTheWord : Obligations.EncodeOfDecodeIsTheWord := fun _ _ => encode_of_decode_ok

/-- Settles O55, by the four ways a step can go. -/
theorem everyStepKeepsTheInvariant : Obligations.EveryStepKeepsTheInvariant := fun _ _ => State.Inv.step

/-- Settles O1: an instruction's word is its encoding, and the two refused words have no row. -/
theorem specWordsDecodeToTheirInstructions : Obligations.SpecWordsDecodeToTheirInstructions :=
  ⟨decode_encode .nop, decode_encode .cls, decode_encode .ret, decode_encode (.jp 0xABC), decode_encode (.seImm 3 0x42),
    decode_encode (.subn 1 2), decode_encode (.shl 1 0), decode_encode (.ldI 0x2F0), decode_encode (.drw 1 2 15),
    decode_encode (.sknp 5), decode_encode (.waitKey 5), decode_encode (.loadRegs 2),
    decode_error_of_no_row (by decide), decode_error_of_no_row (by decide)⟩

/-- Settles O5: the state a shift answers does not mention y. -/
theorem shiftsIgnoreTheYField : Obligations.ShiftsIgnoreTheYField := fun x y y' s =>
  ⟨decode_of_encode (wordXY_eq 0x8 0x6 x y).symm, decode_of_encode (wordXY_eq 0x8 0xE x y).symm,
    (exec_shr x y s).trans (exec_shr x y' s).symm, (exec_shl x y s).trans (exec_shl x y' s).symm⟩

/-- Settles O6: the word fetched is the one that decodes. -/
theorem stepRunsTheDecodedInstruction : Obligations.StepRunsTheDecodedInstruction := fun s _ _ _ hsafe ha hb hdecode =>
  step_of_decode_ok hsafe (s.fetchWord_eq_ofNat ha hb) hdecode

/-- Settles O7: nothing is fetched, and the clear latch records it. -/
theorem fetchOutsideMemoryLatches : Obligations.FetchOutsideMemoryLatches := by
  intro s hsafe hpc
  have hfetch : s.fetchWord = none := s.fetchWord_eq_none_iff.mpr hpc
  rw [step_of_no_fetch hsafe hfetch, State.raise_of_safe hsafe]

/-- Settles O8: a word that no row selects is refused by name, and the clear latch records it. -/
theorem unimplementedWordLatches : Obligations.UnimplementedWordLatches := by
  intro s a b w hsafe ha hb hw hrows
  have hfetch : s.fetchWord = some w := hw ▸ s.fetchWord_eq_ofNat ha hb
  have hdecode : decode w = .error (.unimplementedOpcode w) :=
    decode_error_of_no_row fun r hr => beq_eq_false_iff_ne.mpr (hrows r hr)
  have hsafe' : s.advancePc.fault.code = .noFault := hsafe
  rw [step_of_decode_error hsafe hfetch hdecode, State.raise_of_safe hsafe']
  rfl

/-- Settles O38: each element of R37 by its value in the reset state. -/
theorem resetTransactionGivesTheResetState : Obligations.ResetTransactionGivesTheResetState := fun s =>
  ⟨_, transact_reset s, fun _ => Vector.getElem_replicate .., rfl, rfl, rfl, fun _ => Vector.getElem_replicate .., rfl,
    rfl, fun _ => Vector.getElem_replicate .., Framebuffer.cell_blank, State.readByte_of_mem_nil rfl, rfl, rfl, rfl, rfl⟩

/-- Settles O54: no byte is listed and the latch is clear, and power-on is one such reset. -/
theorem resetStateHasTheInvariant : Obligations.ResetStateHasTheInvariant :=
  ⟨State.Inv.resetWith Config.default [] 0, State.Inv.resetWith⟩

end
